-- ==== Sys2Proof/Word.lean ====
section
/-! DEFINITION. The word types of the block (spec/00_scope.md R6, R7, R9). -/

namespace Sys2Proof

/-- A 32-bit word: the port `in_instr` (`IN_WIDTH` = 32) and the register `out_imm`
(`OUT_WIDTH` = 32), R6. Bit 0 is the least significant bit, R7. `uint` of R9 is `BitVec.toNat`,
`sint` is `BitVec.toInt`. -/
abbrev Word := BitVec 32

/-- A 13-bit value: `raw13`, the immediate before sign extension (`IMM_WIDTH` = 13), R6. -/
abbrev Imm13 := BitVec 13

end Sys2Proof
end

