-- ==== Sys2Proof/Syntax.lean ====
section
/-! DEFINITION. The five operations of spec/opcode_table.json, and the input ports that select and
feed them (spec/10_state.md R26). -/

namespace Sys2Proof

/-- One constructor per row of spec/opcode_table.json. -/
inductive Instr where
  /-- `IMMDEC_B`: decode and sign-extend the branch-type immediate of `w`
  (spec/40_immediate_decode.md R80). Its only operand is the whole word (spec/30_encoding.md R69). -/
  | immdecB (w : Word)
  /-- `RESET`: the edge has `rst = 1` (spec/70_reset_and_hazards.md R140). -/
  | reset
  /-- `HOLD`: the edge has `rst = 0`, `stall = 1`; no operand (spec/41_stage_cycle.md R102). -/
  | hold
  /-- `CAPTURE`: the edge has `rst = 0`, `stall = 0`, `in_valid = 1`; the operand is the word on
  `in_instr` (spec/41_stage_cycle.md R101). -/
  | capture (w : Word)
  /-- `BUBBLE`: the edge has `rst = 0`, `stall = 0`, `in_valid = 0`; the operand is the value on
  `in_instr`, whatever it is (spec/41_stage_cycle.md R103). -/
  | bubble (w : Word)
deriving DecidableEq, Repr

/-- The values the input ports hold when a rising edge of `clk` samples them
(spec/10_state.md R26, R30: each 1-bit port a Boolean, `in_instr` a 32-bit vector). -/
structure Ports where
  /-- synchronous reset, active high -/
  rst     : Bool
  /-- hold both registers -/
  stall   : Bool
  /-- `in_instr` carries a word to decode -/
  inValid : Bool
  /-- the InstructionWord -/
  inInstr : Word
deriving DecidableEq, Repr, Inhabited

/-- What a software front end hands over for the ports before it is known to be port values at all:
unbounded numbers (spec/60_exceptions.md R121: such a front end must do the range check itself). -/
structure RawInput where
  rst     : Nat
  stall   : Nat
  inValid : Nat
  inInstr : Nat
deriving DecidableEq, Repr

end Sys2Proof
end

