-- ==== Sys2Proof/WellFormed.lean ====
section
/-! DEFINITION. Well-formedness: of instructions (nothing is ill-formed, spec/30_encoding.md R68) and
of the raw numbers a front end hands over (spec/60_exceptions.md R121, spec/10_state.md R30). -/

namespace Sys2Proof

/-- No encoding is illegal or reserved (spec/30_encoding.md R68), and the operand's type is the
port's own 32 bits, so every instruction is well formed. -/
def Instr.wf : Instr → Bool
  | .immdecB _ => true
  | .reset => true
  | .hold => true
  | .capture _ => true
  | .bubble _ => true

/-- A 1-bit port carries only 0 and 1 (spec/10_state.md R30). -/
def isPortBit (n : Nat) : Bool := decide (n < 2)

/-- The value fits in 32 bits unsigned: the document's `InvalidInput` check
(spec/60_exceptions.md R121). -/
def fitsInWord (n : Nat) : Bool := decide (n < 2 ^ 32)

/-- The raw numbers are port values: three bits and a 32-bit word. -/
def RawInput.wf (r : RawInput) : Bool :=
  isPortBit r.rst && isPortBit r.stall && isPortBit r.inValid && fitsInWord r.inInstr

end Sys2Proof
end

