-- ==== Sys2Proof/Decode.lean ====
section
/-! DEFINITION. From port values to operations, total, refusing by name what is no port value; the
rows of spec/opcode_table.json as data; and, after the decoder, the encoder and `EncB`
(spec/30_encoding.md, spec/41_stage_cycle.md R100, R104). -/

namespace Sys2Proof

/-- Why a number handed over from outside is refused. The block itself refuses nothing
(spec/41_stage_cycle.md R106); these stand at the model's boundary (spec/93_implementation_defined.md
U6, U7). Log entry 8. -/
inductive DecodeError where
  /-- the value for `rst` is neither 0 nor 1 (R30) -/
  | rstNotABit
  /-- the value for `stall` is neither 0 nor 1 (R30) -/
  | stallNotABit
  /-- the value for `in_valid` is neither 0 nor 1 (R30) -/
  | inValidNotABit
  /-- the document's `InvalidInput`: the word does not fit in 32 bits unsigned (R121) -/
  | invalidInput
  /-- a control value above the three bits `rst`, `stall`, `in_valid` -/
  | strayControlBits
  /-- no row of the opcode table has this length -/
  | noSuchLength
deriving DecidableEq, Repr

/-- The two kinds of rows of spec/opcode_table.json (spec/30_encoding.md R67): an instruction word,
or the input ports at one edge, whose control bits select a stage operation. -/
inductive Encoding where
  | word (w : Word)
  | edge (p : Ports)
deriving DecidableEq, Repr

/-- The stage operation an edge's inputs select: `rst` wins over `stall`, `stall` over `in_valid`
(spec/41_stage_cycle.md R100, R104). -/
def decodePorts (p : Ports) : Instr :=
  if p.rst then .reset
  else if p.stall then .hold
  else if p.inValid then .capture p.inInstr
  else .bubble p.inInstr

/-- Every 32-bit word is an `IMMDEC_B` (spec/30_encoding.md R67, R68). -/
def decodeWord (w : Word) : Instr := .immdecB w

/-- The decoder: total, with nothing to reject, since every port value is valid (R68). -/
def decode : Encoding → Instr
  | .word w => decodeWord w
  | .edge p => decodePorts p

/-- The ports that run an encoding as one edge. An instruction word is decoded exactly at its
capturing edge: `rst` = 0, `stall` = 0, `in_valid` = 1 (spec/70_reset_and_hazards.md R145).
DEDUCED (log entry 6), unsafe. -/
def Encoding.ports : Encoding → Ports
  | .word w => { rst := false, stall := false, inValid := true, inInstr := w }
  | .edge p => p

/-- Raw numbers to port values, or the first check they fail (spec/60_exceptions.md R121,
spec/10_state.md R30). -/
def RawInput.toPorts (r : RawInput) : Except DecodeError Ports :=
  if !isPortBit r.rst then .error .rstNotABit
  else if !isPortBit r.stall then .error .stallNotABit
  else if !isPortBit r.inValid then .error .inValidNotABit
  else if !fitsInWord r.inInstr then .error .invalidInput
  else .ok { rst := r.rst == 1, stall := r.stall == 1, inValid := r.inValid == 1,
             inInstr := BitVec.ofNat 32 r.inInstr }

/-- A stage row's control value (bit 2 `rst`, bit 1 `stall`, bit 0 `in_valid`, as
spec/opcode_table.json numbers them) and the value on `in_instr`. -/
def controlToEncoding (ctl inInstr : Nat) : Except DecodeError Encoding :=
  if ctl < 8 then
    (RawInput.toPorts { rst := ctl / 4, stall := ctl / 2 % 2, inValid := ctl % 2,
                        inInstr := inInstr }).map .edge
  else .error .strayControlBits

/-- A table row's bits to its encoding. 32 bits are an instruction word; 8 bits are a stage row's
control bits alone, with zeros on `in_instr`; 40 bits are a stage row with `in_instr` in bits 39..8.
DESIGN CHOICE (log entry 7), safe. -/
def encodingOfBits (nbits w : Nat) : Except DecodeError Encoding :=
  if nbits = 32 then
    if fitsInWord w then .ok (.word (BitVec.ofNat 32 w)) else .error .invalidInput
  else if nbits = 8 then controlToEncoding w 0
  else if nbits = 40 then controlToEncoding (w % 256) (w / 256)
  else .error .noSuchLength

/-- The decoder on a table row's bits, refusing by name. -/
def decodeBits (nbits w : Nat) : Except DecodeError Instr :=
  (encodingOfBits nbits w).map decode

/-- The instruction the decoder reads from a row's bits, `none` where it refuses. -/
def decodeTableWord (nbits w : Nat) : Option Instr :=
  (decodeBits nbits w).toOption

/-- A row of spec/opcode_table.json: its mnemonic, and the bits it fixes. -/
structure TableRow where
  mnemonic : String
  pattern  : Nat
  mask     : Nat
deriving DecidableEq, Repr

/-- The row of each operation, with the table's `match` and `mask`. -/
def Instr.row : Instr → TableRow
  | .immdecB _ => { mnemonic := "IMMDEC_B", pattern := 0x00000000, mask := 0x00000000 }
  | .reset => { mnemonic := "RESET", pattern := 0b100, mask := 0b100 }
  | .hold => { mnemonic := "HOLD", pattern := 0b010, mask := 0b110 }
  | .capture _ => { mnemonic := "CAPTURE", pattern := 0b001, mask := 0b111 }
  | .bubble _ => { mnemonic := "BUBBLE", pattern := 0b000, mask := 0b111 }

/-- The four stage-control rows of the table, in the table's order. -/
def stageRows : List TableRow :=
  [Instr.row .reset, Instr.row .hold, Instr.row (.capture 0), Instr.row (.bubble 0)]

/-- A value has the bits the row fixes. -/
def TableRow.fits (r : TableRow) (value : Nat) : Bool := value &&& r.mask == r.pattern

/-- The control bits of an edge as the table numbers them, `rst` in bit 2, `stall` in bit 1,
`in_valid` in bit 0. -/
def Ports.control (p : Ports) : Nat :=
  4 * p.rst.toNat + 2 * p.stall.toNat + p.inValid.toNat

/-- The encoder. Bits the operation does not use (`in_instr` and `in_valid` of a `HOLD`, all but
`rst` of a `RESET`) are written 0. DESIGN CHOICE (log entry 9), safe. -/
def encode : Instr → Encoding
  | .immdecB w => .word w
  | .reset => .edge { rst := true, stall := false, inValid := false, inInstr := 0 }
  | .hold => .edge { rst := false, stall := true, inValid := false, inInstr := 0 }
  | .capture w => .edge { rst := false, stall := false, inValid := true, inInstr := w }
  | .bubble w => .edge { rst := false, stall := false, inValid := false, inInstr := w }

/-- An encoding as a length and a number, laid out as `encodingOfBits` reads them. -/
def Encoding.bits : Encoding → Nat × Nat
  | .word w => (32, w.toNat)
  | .edge p => (40, p.control + 256 * p.inInstr.toNat)

/-- The encoder down to bits. -/
def encodeBits (i : Instr) : Nat × Nat := (encode i).bits

/-- `EncB(O)` of spec/30_encoding.md R70: with u = `tc_13(O)`, the word whose fields carry u's bits
and whose ignored bits are 0. -/
def encB (offset : Int) : Word :=
  let u := BitVec.ofInt 13 offset
  u.extractLsb' 12 1 ++ u.extractLsb' 5 6 ++ 0#13 ++ u.extractLsb' 1 4 ++ u.extractLsb' 11 1 ++ 0#7

end Sys2Proof
end

