-- ==== Sys2Proof/Machine/Operands.lean ====
section
/-! DEFINITION. The combinational core: the four fields, their assembly into `raw13` and the sign
extension, step for step as the pseudocode of spec/40_immediate_decode.md R80. -/

namespace Sys2Proof.Machine

/-- `imm12` = w[31] (spec/30_encoding.md R61). -/
def fImm12 (w : Word) : BitVec 1 := w.extractLsb' 31 1

/-- `imm10_5` = w[30:25] (spec/30_encoding.md R61). -/
def fImm10_5 (w : Word) : BitVec 6 := w.extractLsb' 25 6

/-- `imm4_1` = w[11:8] (spec/30_encoding.md R61). -/
def fImm4_1 (w : Word) : BitVec 4 := w.extractLsb' 8 4

/-- `imm11` = w[7] (spec/30_encoding.md R61). -/
def fImm11 (w : Word) : BitVec 1 := w.extractLsb' 7 1

/-- Step 2 of R80: each field at its semantic bit location, OR-ed (spec/30_encoding.md R63). -/
def placedFields (w : Word) : Imm13 :=
  (fImm12 w).setWidth 13 <<< 12 ||| (fImm11 w).setWidth 13 <<< 11
    ||| (fImm10_5 w).setWidth 13 <<< 5 ||| (fImm4_1 w).setWidth 13 <<< 1

/-- Step 3 of R80: the mask to 13 bits, kept so that the model has the document's steps one for one
(spec/30_encoding.md R63). -/
def raw13 (w : Word) : Imm13 := placedFields w &&& 0x1FFF#13

/-- `ImmB(w)` of R80: `raw13` sign-extended from bit 12 to 32 bits, not scaled
(spec/30_encoding.md R64). -/
def immB (w : Word) : Word := (raw13 w).signExtend 32

end Sys2Proof.Machine
end

