-- ==== Sys2Proof/Config.lean ====
section
/-! DEFINITION. The open parameters of the spec (spec/00_scope.md R6) and the free inputs of the
environment (spec/41_stage_cycle.md R105): constants with no body, so that nothing can be proved of
their values. -/

namespace Sys2Proof

/-- `OUT_IMM_RESET`: any 32-bit value, fixed for an instance (spec/70_reset_and_hazards.md R141).
Log entry 4. -/
opaque Config.outImmReset : Word

/-- `POWERON_STATE`, its `out_valid` part: any value (spec/70_reset_and_hazards.md R142).
Log entry 5. -/
opaque Config.powerOnValid : Bool

/-- `POWERON_STATE`, its `out_imm` part: any value (spec/70_reset_and_hazards.md R142).
Log entry 5. -/
opaque Config.powerOnImm : Word

/-- What the environment drives at the n-th edge where no sample is listed for it: free per-edge
inputs (spec/41_stage_cycle.md R105). DESIGN CHOICE (log entry 2), safe: nothing constrains it. -/
opaque Config.freePorts : Nat → Ports

end Sys2Proof
end

