-- ==== Sys2Proof/Machine/State.lean ====
section
/-! DEFINITION. The state of the stage: its two registers (spec/10_state.md R25, R29), and the
environment's inputs for the edges to come (spec/41_stage_cycle.md R105). -/

namespace Sys2Proof.Machine

/-- `out_valid` and `out_imm` are the block's only state (R25). `stimulus` and `edge` are the
model's own: what the environment drives, as data the step reads. -/
structure State where
  /-- the register `out_valid` (R25) -/
  outValid : Bool
  /-- the register `out_imm` (R25) -/
  outImm   : Word
  /-- MODEL'S OWN: the port samples of the edges to come, the next edge first (log entry 1) -/
  stimulus : List Ports
  /-- MODEL'S OWN: how many edges have gone by, the argument of `Config.freePorts` (log entry 2) -/
  edge     : Nat
deriving DecidableEq, Repr

/-- The stage never faults (spec/60_exceptions.md R120, spec/41_stage_cycle.md R106): there is no
fault, so nothing raises one. -/
inductive Fault where
deriving DecidableEq, Repr

/-- Why an instruction has no next state. -/
inductive Refusal where
  /-- Raised by an arm of `exec` that has no meaning yet; no arm raises it in this model. Safe: no
  claim about a next state follows from it. -/
  | notModelled (mnemonic : String)
deriving DecidableEq, Repr

/-- The machine right after a reset edge: `out_valid` = 0, `out_imm` = `OUT_IMM_RESET`
(spec/70_reset_and_hazards.md R140, R141). No sample is listed and the edge count is 0: DESIGN CHOICE
(log entry 3). -/
def State.reset : State :=
  { outValid := false, outImm := Config.outImmReset, stimulus := [], edge := 0 }

/-- The machine before the first reset edge: both registers hold `POWERON_STATE`
(spec/70_reset_and_hazards.md R142). -/
def State.powerOn : State :=
  { outValid := Config.powerOnValid, outImm := Config.powerOnImm, stimulus := [], edge := 0 }

end Sys2Proof.Machine
end

