-- ==== Sys2Proof/Machine/Ops.lean ====
section
/-! DEFINITION. The operations every meaning is built from: the register update at an edge, and the
sampling of the input ports (spec/41_stage_cycle.md R100). The spec gives the block no memory access
(spec/20_memory.md R41), no flag (spec/10_state.md R22), no exception entry and no return
(spec/60_exceptions.md R120, R124, R125), so there are none here. -/

namespace Sys2Proof.Machine

/-- The update of both registers at an edge: `out_valid' <- v`, `out_imm' <- imm` (R100). -/
def State.latch (s : State) (v : Bool) (imm : Word) : State :=
  { s with outValid := v, outImm := imm }

/-- The values the input ports hold at the next edge: the listed sample, or, where none is listed,
the environment's free one (R105). -/
def State.ports (s : State) : Ports :=
  match s.stimulus with
  | p :: _ => p
  | [] => Config.freePorts s.edge

/-- The environment moves on to its next edge: the sample is gone, whether or not the stage captured
it (spec/10_state.md R29: no buffer holds it). -/
def State.tick (s : State) : State :=
  { s with stimulus := s.stimulus.tail, edge := s.edge + 1 }

/-- The values the input ports hold at the edge that lies `n` edges after the next one. -/
def State.portsAt (s : State) (n : Nat) : Ports :=
  (s.stimulus[n]?).getD (Config.freePorts (s.edge + n))

end Sys2Proof.Machine
end

