-- ==== Sys2Proof/Machine/ImmediateDecode.lean ====
section
/-! DEFINITION. The family `IMMDEC_B` (spec/40_immediate_decode.md R80). -/

namespace Sys2Proof.Machine

/-- `IMMDEC_B` w: `ImmB(w)` is captured into `out_imm` (R80, Operands). A word is decoded exactly at
its capturing edge, which sets `out_valid` (spec/70_reset_and_hazards.md R145,
spec/41_stage_cycle.md R101). DEDUCED (log entry 6), unsafe. -/
def execImmdecB (w : Word) (s : State) : Host.Outcome State Fault Refusal :=
  .next (s.latch true (immB w))

end Sys2Proof.Machine
end

