-- ==== Sys2Proof/Machine/Stage.lean ====
section
/-! DEFINITION. The family of stage operations: RESET, HOLD, CAPTURE, BUBBLE
(spec/41_stage_cycle.md, spec/70_reset_and_hazards.md R140). -/

namespace Sys2Proof.Machine

/-- RESET: `out_valid' <- 0`, `out_imm' <- OUT_IMM_RESET` (spec/70_reset_and_hazards.md R140). -/
def execReset (s : State) : Host.Outcome State Fault Refusal :=
  .next (s.latch false Config.outImmReset)

/-- HOLD: `out_valid' <- out_valid`, `out_imm' <- out_imm` (spec/41_stage_cycle.md R102). -/
def execHold (s : State) : Host.Outcome State Fault Refusal :=
  .next (s.latch s.outValid s.outImm)

/-- CAPTURE of w: `out_valid' <- 1`, `out_imm' <- ImmB(w)` (spec/41_stage_cycle.md R101). -/
def execCapture (w : Word) (s : State) : Host.Outcome State Fault Refusal :=
  .next (s.latch true (immB w))

/-- BUBBLE with w on `in_instr`: `out_valid' <- 0`, `out_imm' <- ImmB(in_instr)`
(spec/41_stage_cycle.md R103). The new `out_imm` carries no claim for a consumer (log entry 10). -/
def execBubble (w : Word) (s : State) : Host.Outcome State Fault Refusal :=
  .next (s.latch false (immB w))

end Sys2Proof.Machine
end

