-- ==== Sys2Proof/Machine/Dispatch.lean ====
section
/-! DEFINITION. One arm per constructor of Instr, each one call of its meaning. -/

namespace Sys2Proof.Machine

def exec (i : Instr) (s : State) : Host.Outcome State Fault Refusal :=
  match i with
  -- spec/40_immediate_decode.md R80
  | .immdecB w => Sys2Proof.Machine.execImmdecB w s
  -- spec/70_reset_and_hazards.md R140
  | .reset => Sys2Proof.Machine.execReset s
  -- spec/41_stage_cycle.md R102
  | .hold => Sys2Proof.Machine.execHold s
  -- spec/41_stage_cycle.md R101
  | .capture w => Sys2Proof.Machine.execCapture w s
  -- spec/41_stage_cycle.md R103
  | .bubble w => Sys2Proof.Machine.execBubble w s

end Sys2Proof.Machine
end

