-- ==== Sys2Proof/Machine/Step.lean ====
section
/-! DEFINITION. One step: one rising edge of `clk` (spec/41_stage_cycle.md R100). -/

namespace Sys2Proof.Machine

/-- At a rising edge the stage samples its input ports, runs the operation they select, and the
environment moves on to its next edge (R100, R105). -/
def step (s : State) : Host.Outcome State Fault Refusal :=
  exec (decode (.edge s.ports)) s.tick

/-- `s` with the ports of the given table row's bits driven at the next edge: an instruction word is
presented at a capturing edge, a stage row's control bits as they stand with the word after them on
`in_instr`. Bits the decoder refuses are no port values and change nothing. Log entry 13. -/
def State.withFetchWord (s : State) (nbits w : Nat) : State :=
  match encodingOfBits nbits w with
  | .ok e => { s with stimulus := e.ports :: s.stimulus.tail }
  | .error _ => s

end Sys2Proof.Machine
end

