-- ==== Sys2Proof/Machine/Signals.lean ====
section
/-! DEFINITION. What can be seen of the stage: the two output ports (spec/10_state.md R27), and the
named internal signals within the cycle before the next edge (spec/10_state.md R28). -/

namespace Sys2Proof.Machine

/-- The output port `out_valid`, driven by the register alone (R27). -/
def State.portOutValid (s : State) : Bool := s.outValid

/-- The output port `out_imm`, driven by the register alone (R27). -/
def State.portOutImm (s : State) : Word := s.outImm

/-- The internal signal `f_imm12` (R28). -/
def State.sigImm12 (s : State) : BitVec 1 := fImm12 s.ports.inInstr

/-- The internal signal `f_imm10_5` (R28). -/
def State.sigImm10_5 (s : State) : BitVec 6 := fImm10_5 s.ports.inInstr

/-- The internal signal `f_imm4_1` (R28). -/
def State.sigImm4_1 (s : State) : BitVec 4 := fImm4_1 s.ports.inInstr

/-- The internal signal `f_imm11` (R28). -/
def State.sigImm11 (s : State) : BitVec 1 := fImm11 s.ports.inInstr

/-- The internal signal `raw13` (R28). -/
def State.sigRaw13 (s : State) : Imm13 := raw13 s.ports.inInstr

/-- The internal signal `imm_next` (R28). -/
def State.sigImmNext (s : State) : Word := immB s.ports.inInstr

/-- What a consumer may use in this cycle: `out_imm` only with `out_valid` = 1
(spec/70_reset_and_hazards.md R146). -/
def State.result (s : State) : Option Word :=
  match s.portOutValid with
  | true => some s.portOutImm
  | false => none

end Sys2Proof.Machine
end

