-- ==== Sys2Proof/Safety.lean ====
section
/-! DEFINITION. The terms claims are made in: the kinds of edges, runs, what is captured and what a
consumer takes, the duties of the environment, and what a good state is
(spec/41_stage_cycle.md, spec/70_reset_and_hazards.md). Every run of this stage is safe in the plain
sense, since no step stops (R106); `ValidIsImmediate` is the good state. -/

namespace Sys2Proof

open Sys2Proof.Machine

/-- The edge is a reset (spec/70_reset_and_hazards.md R140). -/
def Ports.isReset (p : Ports) : Bool := p.rst

/-- The edge is a HOLD (spec/41_stage_cycle.md R102). -/
def Ports.isHold (p : Ports) : Bool := !p.rst && p.stall

/-- The edge is a CAPTURE (spec/41_stage_cycle.md R101). -/
def Ports.isCapture (p : Ports) : Bool := !p.rst && !p.stall && p.inValid

/-- The edge is a BUBBLE (spec/41_stage_cycle.md R103). -/
def Ports.isBubble (p : Ports) : Bool := !p.rst && !p.stall && !p.inValid

/-- The word the edge captures, if it is a CAPTURE. -/
def Ports.captured (p : Ports) : Option Word := if p.isCapture then some p.inInstr else none

namespace Safety

/-- `n` edges in a row from `s`. -/
def runEdges (n : Nat) (s : State) : Host.Outcome State Fault Refusal :=
  Host.Core.run Sys2Proof.core n s

/-- The words captured at the next `n` edges, the first captured first. -/
def capturedWords (n : Nat) (s : State) : List Word :=
  (List.range n).filterMap fun j => (s.portsAt j).captured

/-- The result in the register that no consumer has taken yet, as a list of at most one. -/
def inFlight (s : State) : List Word := s.result.toList

/-- What a consumer takes at the next edge: the result of the cycle before it, if the edge has
`stall` = 0 (spec/70_reset_and_hazards.md R146). DEDUCED for an edge with `rst` = 1 and `stall` = 0
(log entry 15), unsafe. -/
def takenNow (s : State) : List Word := if s.ports.stall then [] else inFlight s

/-- What a consumer takes at the next `n` edges, in the order it takes it (R146). -/
def takenWords : Nat → State → List Word
  | 0, _ => []
  | n + 1, s =>
    takenNow s ++
      match step s with
      | .next t => takenWords n t
      | .fault _ => []
      | .refused _ => []

/-- The upstream duty of spec/70_reset_and_hazards.md R145, during the next `n` edges: a word
presented at an edge with `stall` = 1 or `rst` = 1 is presented again, unchanged, at the edge after
it. -/
def UpstreamHolds (n : Nat) (s : State) : Prop :=
  ∀ j, j < n → (s.portsAt j).inValid = true →
    ((s.portsAt j).stall = true ∨ (s.portsAt j).rst = true) →
    (s.portsAt (j + 1)).inValid = true ∧ (s.portsAt (j + 1)).inInstr = (s.portsAt j).inInstr

/-- The result of `w` bit by bit, as the closing formula of spec/30_encoding.md R65 writes it: 20
copies of w[31], then w[7], w[30:25], w[11:8] and a constant 0. -/
def bitwiseResult (w : Word) : Word :=
  (w.extractLsb' 31 1).signExtend 20 ++ w.extractLsb' 7 1 ++ w.extractLsb' 25 6
    ++ w.extractLsb' 8 4 ++ 0#1

/-- The good states: a result marked valid is the decode of some word
(spec/10_state.md R25, the meaning of `out_valid`; spec/41_stage_cycle.md R107). -/
def ValidIsImmediate (s : State) : Prop :=
  s.outValid = true → ∃ w : Word, s.outImm = immB w

/-- Two states a consumer cannot tell apart: the same result or none in both
(spec/70_reset_and_hazards.md R146). -/
def SameToConsumer (s t : State) : Prop := s.result = t.result

/-- Two states with the same inputs to come. -/
def SameInputs (s t : State) : Prop := s.stimulus = t.stimulus ∧ s.edge = t.edge

end Safety

end Sys2Proof
end

