-- ==== Sys2Proof/Certificates/Slice0/Obligations.lean ====
section
/-! DEFINITION. The statements for the provers. Each docstring names the rule of spec/ it
formalises, or says what of it is the model's own. Where a statement writes `{ s with … }`, the
fields it does not name are the model's own `stimulus` and `edge` (log entries 1 and 2): an
instruction leaves them alone, and the step around it moves them on by one edge (`State.tick`). -/

open Sys2Proof Sys2Proof.Machine Sys2Proof.Safety

/-! ### The decode function -/

/-- spec/30_encoding.md R65: the result bit by bit, as the table's rows and as the formula. -/
def Obligations.ResultBitByBit : Prop :=
  ∀ w : Word,
    (∀ i, 12 ≤ i → i < 32 → (immB w).getLsbD i = w.getLsbD 31) ∧
    (immB w).getLsbD 11 = w.getLsbD 7 ∧
    (immB w).extractLsb' 5 6 = w.extractLsb' 25 6 ∧
    (immB w).extractLsb' 1 4 = w.extractLsb' 8 4 ∧
    (immB w).getLsbD 0 = false ∧
    immB w = bitwiseResult w

/-- spec/30_encoding.md R63: the OR of the placed fields on numbers, the mask that changes nothing,
the concatenation, and bit 0. -/
def Obligations.Raw13IsAssembledFields : Prop :=
  ∀ w : Word,
    (raw13 w).toNat =
      ((fImm12 w).toNat <<< 12 ||| (fImm11 w).toNat <<< 11 ||| (fImm10_5 w).toNat <<< 5
        ||| (fImm4_1 w).toNat <<< 1) &&& 0x1FFF ∧
    raw13 w = placedFields w ∧
    raw13 w = w.extractLsb' 31 1 ++ w.extractLsb' 7 1 ++ w.extractLsb' 25 6 ++ w.extractLsb' 8 4
      ++ 0#1 ∧
    (raw13 w).getLsbD 0 = false

/-- spec/30_encoding.md R61: each field is the (shift, mask) pair of the table's row, and lands at
the bits of raw13 the row gives. -/
def Obligations.FieldsAreShiftAndMask : Prop :=
  ∀ w : Word,
    (fImm12 w).toNat = (w.toNat >>> 31) &&& 0x1 ∧
    (fImm10_5 w).toNat = (w.toNat >>> 25) &&& 0x3F ∧
    (fImm4_1 w).toNat = (w.toNat >>> 8) &&& 0xF ∧
    (fImm11 w).toNat = (w.toNat >>> 7) &&& 0x1 ∧
    (raw13 w).extractLsb' 12 1 = fImm12 w ∧
    (raw13 w).extractLsb' 5 6 = fImm10_5 w ∧
    (raw13 w).extractLsb' 1 4 = fImm4_1 w ∧
    (raw13 w).extractLsb' 11 1 = fImm11 w

/-- spec/40_immediate_decode.md R81. -/
def Obligations.ResultBitZeroIsZero : Prop :=
  ∀ w : Word, (immB w).getLsbD 0 = false

/-- spec/40_immediate_decode.md R82: the result depends on the word alone, whatever the state the
word meets, and decoding a result again is not the same (the rule's counterexample). -/
def Obligations.DecodeDependsOnWordAlone : Prop :=
  (∀ (w : Word) (s s' : State), ∃ t t',
    exec (.immdecB w) s = .next t ∧ exec (.immdecB w) s' = .next t' ∧ t.outImm = t'.outImm) ∧
  immB 0x7E000F80#32 = 0x00000FFE#32 ∧ immB 0x00000FFE#32 = 0x0000081E#32

/-- spec/40_immediate_decode.md R83, the sign-extension law. -/
def Obligations.SignExtensionLaw : Prop :=
  ∀ w : Word, (immB w).toInt =
    if (raw13 w).getLsbD 12 then ((raw13 w).toNat : Int) - 0x2000 else ((raw13 w).toNat : Int)

/-- spec/40_immediate_decode.md R84, the range law, and when the result is negative. -/
def Obligations.OffsetEvenAndInRange : Prop :=
  ∀ w : Word,
    (∃ k : Int, (immB w).toInt = 2 * k) ∧ -4096 ≤ (immB w).toInt ∧ (immB w).toInt ≤ 4094 ∧
    ((immB w).toInt < 0 ↔ w.getLsbD 31 = true)

/-- spec/40_immediate_decode.md R85, the closed form with the field weights. -/
def Obligations.OffsetClosedForm : Prop :=
  ∀ w : Word, (immB w).toInt =
    -4096 * ((w.extractLsb' 31 1).toNat : Int) + 2048 * ((w.extractLsb' 7 1).toNat : Int)
      + 32 * ((w.extractLsb' 25 6).toNat : Int) + 2 * ((w.extractLsb' 8 4).toNat : Int)

/-- spec/40_immediate_decode.md R86, the ignored-bit law, with its consequence for two words. -/
def Obligations.IgnoredBitsNeverMatter : Prop :=
  (∀ w : Word, immB w = immB (w &&& 0xFE000F80#32)) ∧
  (∀ w v : Word,
    (∀ i, i < 32 → ¬ (12 ≤ i ∧ i ≤ 24) → ¬ i ≤ 6 → w.getLsbD i = v.getLsbD i) → immB w = immB v)

/-- spec/40_immediate_decode.md R88: the 13-bit value read as signed is the 32-bit result read as
signed. -/
def Obligations.SignedRaw13IsSignedResult : Prop :=
  ∀ w : Word, (raw13 w).toInt = (immB w).toInt

/-- spec/40_immediate_decode.md R87: the placed fields do not overlap, so their OR is their sum, and
it fits 13 bits with room for nothing else. -/
def Obligations.PlacedFieldsNeverCarry : Prop :=
  ∀ w : Word,
    (raw13 w).toNat = 4096 * (fImm12 w).toNat + 2048 * (fImm11 w).toNat
      + 32 * (fImm10_5 w).toNat + 2 * (fImm4_1 w).toNat ∧
    (raw13 w).toNat ≤ 0x1FFE

/-- spec/30_encoding.md R66: the range as integers and as words, and that every even integer of it
is the result of some word. -/
def Obligations.ResultsAreExactlyEvenOffsets : Prop :=
  (∀ w : Word,
    (immB w).toNat % 2 = 0 ∧
    ((immB w).toNat ≤ 0x00000FFE ∨
      (0xFFFFF000 ≤ (immB w).toNat ∧ (immB w).toNat ≤ 0xFFFFFFFE)) ∧
    -4096 ≤ (immB w).toInt ∧ (immB w).toInt ≤ 4094) ∧
  (∀ o : Int, -4096 ≤ o → o ≤ 4094 → o % 2 = 0 → ∃ w : Word, (immB w).toInt = o)

/-- spec/30_encoding.md R70: with u the 13-bit two's complement of an even offset, the fields of
`EncB` carry u's bits and every other bit is 0. -/
def Obligations.EncBFieldsCarryOffset : Prop :=
  ∀ o : Int, -4096 ≤ o → o ≤ 4094 → o % 2 = 0 → ∃ u : Imm13, u.toInt = o ∧
    (encB o).getLsbD 31 = u.getLsbD 12 ∧
    (encB o).extractLsb' 25 6 = u.extractLsb' 5 6 ∧
    (encB o).extractLsb' 8 4 = u.extractLsb' 1 4 ∧
    (encB o).getLsbD 7 = u.getLsbD 11 ∧
    (∀ i, (12 ≤ i ∧ i ≤ 24) ∨ i ≤ 6 → (encB o).getLsbD i = false)

/-- spec/40_immediate_decode.md R89, the round-trip law. -/
def Obligations.OffsetRoundTrip : Prop :=
  ∀ o : Int, -4096 ≤ o → o ≤ 4094 → o % 2 = 0 → (immB (encB o)).toInt = o

/-- The corner cases and the worked example of spec/40_immediate_decode.md R80, and an offset that
is no multiple of 4 (spec/20_memory.md R46). -/
def Obligations.DocumentedWordsDecode : Prop :=
  immB 0x00000000#32 = 0x00000000#32 ∧
  immB 0x80000000#32 = 0xFFFFF000#32 ∧
  immB 0x7E000F80#32 = 0x00000FFE#32 ∧
  immB 0xFE000F80#32 = 0xFFFFFFFE#32 ∧
  immB 0xFFFFFFFF#32 = 0xFFFFFFFE#32 ∧
  immB 0x01FFF07F#32 = 0x00000000#32 ∧
  raw13 0xFE6296E3#32 = 0x1FEC#13 ∧
  immB 0xFE6296E3#32 = 0xFFFFFFEC#32 ∧ (0xFFFFFFEC#32).toInt = -20 ∧
  immB 0x00000100#32 = 0x00000002#32

/-! ### The instructions -/

/-- `IMMDEC_B` completes in every state for every word: the assembled and sign-extended immediate of
spec/30_encoding.md R65 is in `out_imm`. That an `IMMDEC_B` that runs is a capturing edge, so that
`out_valid` becomes 1, is the model's reading (log entry 6, DEDUCED). -/
def Obligations.ImmdecBCapturesAssembledImmediate : Prop :=
  ∀ (w : Word) (s : State),
    exec (.immdecB w) s = .next { s with outValid := true, outImm := bitwiseResult w }

/-- spec/41_stage_cycle.md R101, CAPTURE: the operation completes in every state for every word;
an edge with these inputs does that to the registers; the worked example; and a second CAPTURE
replaces the first one's result. -/
def Obligations.CaptureEdge : Prop :=
  (∀ (w : Word) (s : State),
    exec (.capture w) s = .next { s with outValid := true, outImm := immB w }) ∧
  (∀ s : State, s.ports.rst = false → s.ports.stall = false → s.ports.inValid = true →
    ∃ t, step s = .next t ∧ t.outValid = true ∧ t.outImm = immB s.ports.inInstr) ∧
  (∀ s : State, ∃ t, exec (.capture 0xFE6296E3#32) s = .next t ∧
    t.outValid = true ∧ t.outImm = 0xFFFFFFEC#32) ∧
  (∀ (w w' : Word) (s t : State), exec (.capture w) s = .next t →
    exec (.capture w') t = .next { s with outValid := true, outImm := immB w' })

/-- spec/41_stage_cycle.md R102, HOLD: the operation completes in every state and changes no
register, whatever `in_valid` and `in_instr` hold; and the worked example. -/
def Obligations.HoldEdge : Prop :=
  (∀ s : State, exec .hold s = .next s) ∧
  (∀ s : State, s.ports.rst = false → s.ports.stall = true →
    ∃ t, step s = .next t ∧ t.outValid = s.outValid ∧ t.outImm = s.outImm) ∧
  (∀ s : State, s.outValid = true → s.outImm = 0x00000008#32 →
    s.ports = { rst := false, stall := true, inValid := true, inInstr := 0x80000000#32 } →
    ∃ t, step s = .next t ∧ t.outValid = true ∧ t.outImm = 0x00000008#32)

/-- spec/41_stage_cycle.md R103, BUBBLE: the operation completes in every state for every value on
`in_instr`; an edge with these inputs does that to the registers; and the worked example. The new
`out_imm` carries no claim for a consumer (R146): the statement is about the register. -/
def Obligations.BubbleEdge : Prop :=
  (∀ (w : Word) (s : State),
    exec (.bubble w) s = .next { s with outValid := false, outImm := immB w }) ∧
  (∀ s : State, s.ports.rst = false → s.ports.stall = false → s.ports.inValid = false →
    ∃ t, step s = .next t ∧ t.outValid = false ∧ t.outImm = immB s.ports.inInstr) ∧
  (∀ s : State, ∃ t, exec (.bubble 0x00000100#32) s = .next t ∧
    t.outValid = false ∧ t.outImm = 0x00000002#32)

/-- spec/70_reset_and_hazards.md R140, RESET: the operation completes in every state; an edge with
`rst` = 1 does that to the registers whatever the other inputs hold. `OUT_IMM_RESET` is the opaque
constant: the statement holds for every value of it. -/
def Obligations.ResetEdge : Prop :=
  (∀ s : State, exec .reset s = .next { s with outValid := false, outImm := Config.outImmReset }) ∧
  (∀ s : State, s.ports.rst = true →
    ∃ t, step s = .next t ∧ t.outValid = false ∧ t.outImm = Config.outImmReset)

/-- spec/41_stage_cycle.md R100: the step's whole table, from every state and for every inputs. -/
def Obligations.StepFollowsStageTable : Prop :=
  ∀ s : State, ∃ t, step s = .next t ∧
    t.outValid = (if s.ports.rst then false
      else if s.ports.stall then s.outValid else s.ports.inValid) ∧
    t.outImm = (if s.ports.rst then Config.outImmReset
      else if s.ports.stall then s.outImm else bitwiseResult s.ports.inInstr)

/-- spec/41_stage_cycle.md R104: `rst` over `stall` and `in_valid`, `stall` over `in_valid`: which
operation a step runs, for every combination of the other inputs. -/
def Obligations.ResetOverStallOverValid : Prop :=
  (∀ s : State, s.ports.rst = true → step s = exec .reset s.tick) ∧
  (∀ s : State, s.ports.rst = false → s.ports.stall = true → step s = exec .hold s.tick) ∧
  (∀ s : State, s.ports.rst = false → s.ports.stall = false → s.ports.inValid = true →
    step s = exec (.capture s.ports.inInstr) s.tick) ∧
  (∀ s : State, s.ports.rst = false → s.ports.stall = false → s.ports.inValid = false →
    step s = exec (.bubble s.ports.inInstr) s.tick)

/-- A step runs the operation its sampled inputs decode to, on the state whose inputs have moved on
by one edge: the listed sample is gone and the edge count is one more (log entries 1 and 2). -/
def Obligations.StepRunsDecodedInstruction : Prop :=
  ∀ s : State, step s = exec (decode (.edge s.ports))
    { s with stimulus := s.stimulus.tail, edge := s.edge + 1 }

/-- A step at a capturing edge of a word is that word's `IMMDEC_B` (spec/70_reset_and_hazards.md
R145: a word is decoded exactly there). The model's reading, log entry 6. -/
def Obligations.CapturingEdgeRunsImmdecB : Prop :=
  ∀ s : State, s.ports.isCapture = true →
    step s = exec (decode (.word s.ports.inInstr))
      { s with stimulus := s.stimulus.tail, edge := s.edge + 1 }

/-- An instruction placed by `withFetchWord` is the one the next step runs, for every length and
value the decoder accepts. The placing is the model's own (log entry 13, DESIGN CHOICE), so is the
layout of the numbers (log entry 7, DESIGN CHOICE), and that a placed word runs on a capturing edge
is the model's reading (log entry 6, DEDUCED). -/
def Obligations.PlacedInstructionRunsNext : Prop :=
  ∀ (s : State) (nbits w : Nat) (i : Instr), decodeTableWord nbits w = some i →
    step (s.withFetchWord nbits w) = exec i (s.withFetchWord nbits w).tick

/-- spec/70_reset_and_hazards.md R147: what ran before a decode leaves no mark on it, for every
instruction before and each of the three that decode. The IMMDEC_B clause compares `out_valid` too,
which rests on the model's reading (log entry 6, DEDUCED); the BUBBLE clause compares the register
`out_imm`, which rests on spec/41_stage_cycle.md R103's Effect line (log entry 10, DEDUCED). -/
def Obligations.EarlierInstructionsLeaveNoHazard : Prop :=
  ∀ (i : Instr) (w : Word) (s t : State), exec i s = .next t →
    exec (.immdecB w) t = exec (.immdecB w) s ∧
    exec (.capture w) t = exec (.capture w) s ∧
    exec (.bubble w) t = exec (.bubble w) s

/-! ### Encoding -/

/-- Decoding the bits the encoder writes gives the instruction back, for every instruction with
every operand value. The numbers' layout (log entry 7) and the zeros the encoder writes for bits an
operation does not use (log entry 9) are the model's, DESIGN CHOICE. -/
def Obligations.EncodedBitsDecodeBack : Prop :=
  ∀ i : Instr, i.wf = true → decodeTableWord (encodeBits i).1 (encodeBits i).2 = some i

/-- The other direction for instruction words: each 32-bit number is one instruction's own encoding
(spec/30_encoding.md R67, R68), and a number that does not fit is refused as `InvalidInput`
(spec/60_exceptions.md R121), by the decoder at the model's boundary (log entry 8, DEDUCED). -/
def Obligations.EveryWordIsOneImmdecB : Prop :=
  (∀ v : Nat, v < 2 ^ 32 → ∃ w : Word,
    decodeBits 32 v = .ok (.immdecB w) ∧ encodeBits (.immdecB w) = (32, v)) ∧
  (∀ v : Nat, 2 ^ 32 ≤ v → decodeBits 32 v = .error .invalidInput)

/-- The document's word and the control values, written out from spec/opcode_table.json and
spec/30_encoding.md R61, decode to what they stand for. How control bits and `in_instr` make one
number is the model's layout (log entry 7, DESIGN CHOICE): the 8-bit forms, whose CAPTURE and BUBBLE
have 0 on `in_instr`, and the 40-bit word with `in_instr` in bits 39..8. -/
def Obligations.WrittenOutBitsDecode : Prop :=
  decodeTableWord 32 0b11111110011000101001011011100011 = some (.immdecB 0xFE6296E3#32) ∧
  decodeTableWord 8 0b100 = some .reset ∧
  decodeTableWord 8 0b111 = some .reset ∧
  decodeTableWord 8 0b010 = some .hold ∧
  decodeTableWord 8 0b011 = some .hold ∧
  decodeTableWord 8 0b001 = some (.capture 0) ∧
  decodeTableWord 8 0b000 = some (.bubble 0) ∧
  decodeTableWord 40 0xFE6296E301 = some (.capture 0xFE6296E3#32)

/-- The four stage rows of spec/opcode_table.json: exactly one row fits the control bits of an edge,
and it is the row of the operation the decoder reads (spec/41_stage_cycle.md R100, R104). -/
def Obligations.ExactlyOneStageRowFits : Prop :=
  ∀ p : Ports, stageRows.filter (fun r => r.fits p.control) = [(decode (.edge p)).row]

/-- Raw numbers are accepted as port values exactly when they are well formed, and no number is
changed on the way (spec/10_state.md R30, spec/60_exceptions.md R121; the refusal stands at the
model's boundary, log entry 8, DEDUCED). -/
def Obligations.RawInputAcceptedUnchanged : Prop :=
  ∀ r : RawInput,
    (r.wf = true ↔ ∃ p, r.toPorts = .ok p) ∧
    (∀ p, r.toPorts = .ok p →
      p.rst.toNat = r.rst ∧ p.stall.toNat = r.stall ∧ p.inValid.toNat = r.inValid ∧
      p.inInstr.toNat = r.inInstr)

/-! ### Signals -/

/-- spec/10_state.md R27: the outputs are the registers, and no input reaches them before an
edge. -/
def Obligations.OutputsComeFromRegisters : Prop :=
  ∀ (s : State) (inputs : List Ports) (e : Nat),
    s.portOutValid = s.outValid ∧ s.portOutImm = s.outImm ∧
    State.portOutValid { s with stimulus := inputs, edge := e } = s.portOutValid ∧
    State.portOutImm { s with stimulus := inputs, edge := e } = s.portOutImm

/-- spec/10_state.md R28: each named internal signal as the function of `in_instr` the rule gives. -/
def Obligations.InternalSignalsOfInInstr : Prop :=
  ∀ s : State,
    s.sigImm12 = s.ports.inInstr.extractLsb' 31 1 ∧
    s.sigImm10_5 = s.ports.inInstr.extractLsb' 25 6 ∧
    s.sigImm4_1 = s.ports.inInstr.extractLsb' 8 4 ∧
    s.sigImm11 = s.ports.inInstr.extractLsb' 7 1 ∧
    s.sigRaw13 = s.ports.inInstr.extractLsb' 31 1 ++ s.ports.inInstr.extractLsb' 7 1
      ++ s.ports.inInstr.extractLsb' 25 6 ++ s.ports.inInstr.extractLsb' 8 4 ++ 0#1 ∧
    s.sigImmNext = immB s.ports.inInstr

/-! ### Invariants and runs -/

/-- spec/41_stage_cycle.md R106: no run of any length stops, from any state, for any inputs. -/
def Obligations.NoRunEverStops : Prop :=
  ∀ (n : Nat) (s : State), ∃ t, runEdges n s = .next t

/-- Every step keeps the good states: a result marked valid is the decode of some word. -/
def Obligations.StepKeepsValidIsImmediate : Prop :=
  ∀ s t : State, ValidIsImmediate s → step s = .next t → ValidIsImmediate t

/-- The reset state is a good one, and its registers are those spec/70_reset_and_hazards.md R140
gives. -/
def Obligations.ResetStateIsGood : Prop :=
  ValidIsImmediate State.reset ∧ State.reset.outValid = false ∧
  State.reset.outImm = Config.outImmReset

/-- spec/41_stage_cycle.md R107, the stage's main invariant, over every run of n edges from every
state: after a reset among them, a valid result is `ImmB` of the word of the last edge that was not
a HOLD, and that edge was a CAPTURE. Without a reset it can fail: some run of HOLDs alone ends with
a valid result that is `ImmB` of no word. -/
def Obligations.ValidResultIsLastCapture : Prop :=
  (∀ (n : Nat) (s t : State), runEdges n s = .next t →
    (∃ j, j < n ∧ (s.portsAt j).rst = true) → t.outValid = true →
    ∃ m, m < n ∧ (s.portsAt m).isCapture = true ∧ t.outImm = immB (s.portsAt m).inInstr ∧
      ∀ j, m < j → j < n → (s.portsAt j).isHold = true) ∧
  (∃ (n : Nat) (s t : State), 0 < n ∧ (∀ j, j < n → (s.portsAt j).isHold = true) ∧
    runEdges n s = .next t ∧ t.outValid = true ∧ ∀ w : Word, t.outImm ≠ immB w)

/-- spec/70_reset_and_hazards.md R142: with no reset, HOLDs carry any power-on draw along, for any
number of edges. -/
def Obligations.HoldsCarryPowerOnDraw : Prop :=
  ∀ (n : Nat) (s : State), (∀ j, j < n → (s.portsAt j).isHold = true) →
    ∃ t, runEdges n s = .next t ∧ t.outValid = s.outValid ∧ t.outImm = s.outImm

/-- spec/70_reset_and_hazards.md R148: the result of a word captured at edge n is on the outputs
right after that edge and through every HOLD that follows, from every state. -/
def Obligations.ResultOneEdgeLaterThroughHolds : Prop :=
  ∀ (n k : Nat) (s : State), (s.portsAt n).isCapture = true →
    (∀ j, n < j → j ≤ n + k → (s.portsAt j).isHold = true) →
    ∃ t, runEdges (n + 1 + k) s = .next t ∧ t.portOutValid = true ∧
      t.portOutImm = immB (s.portsAt n).inInstr

/-- spec/20_memory.md R48 and spec/70_reset_and_hazards.md R146: what a consumer has taken over a
run, and what is still in flight after it, is what was in flight before it and then `ImmB` of every
captured word, in order and each once; for every run without an edge that resets while the consumer
is stalled (that case: `ResetDuringStallDiscards`). That an edge with `rst` = 1 and `stall` = 0
delivers the result before it is the model's reading (log entry 15). -/
def Obligations.ResultsTakenInOrderOnceEach : Prop :=
  ∀ (n : Nat) (s t : State), runEdges n s = .next t →
    (∀ j, j < n → ¬ ((s.portsAt j).rst = true ∧ (s.portsAt j).stall = true)) →
    takenWords n s ++ inFlight t = inFlight s ++ (capturedWords n s).map immB

/-- A reset while the consumer is stalled discards the result that is in the register
(spec/95_test_vectors.md P3): nothing is taken at the edge and nothing is in flight after it. -/
def Obligations.ResetDuringStallDiscards : Prop :=
  ∀ s : State, s.ports.rst = true → s.ports.stall = true →
    takenNow s = [] ∧ ∃ t, step s = .next t ∧ inFlight t = []

/-- spec/70_reset_and_hazards.md R146: at a stalled edge without reset nothing is taken and the same
result stays on the ports. -/
def Obligations.StalledResultStaysUntaken : Prop :=
  ∀ s : State, s.ports.isHold = true →
    takenNow s = [] ∧ ∃ t, step s = .next t ∧ t.result = s.result

/-- spec/70_reset_and_hazards.md R145: a word presented at an edge with `stall` = 1 or `rst` = 1
leaves no trace: the whole next state is the same for every other word and `in_valid`. -/
def Obligations.BlockedWordLeavesNoTrace : Prop :=
  ∀ (s : State) (p q : Ports) (rest : List Ports),
    p.rst = q.rst → p.stall = q.stall → (p.rst = true ∨ p.stall = true) →
    step { s with stimulus := p :: rest } = step { s with stimulus := q :: rest }

/-- spec/70_reset_and_hazards.md R145: a word the upstream agent keeps as its duty asks is decoded at
the first edge that neither stalls nor resets, however long that takes. -/
def Obligations.HeldWordIsDecoded : Prop :=
  ∀ (s : State) (i k : Nat), UpstreamHolds k s → i ≤ k → (s.portsAt i).inValid = true →
    (∀ j, i ≤ j → j < k → (s.portsAt j).stall = true ∨ (s.portsAt j).rst = true) →
    (s.portsAt k).stall = false → (s.portsAt k).rst = false →
    ∃ t, runEdges (k + 1) s = .next t ∧ t.result = some (immB (s.portsAt i).inInstr)

/-- spec/70_reset_and_hazards.md R143: one reset edge is enough, whatever the registers held before
it, and the edge after it, if it has `rst` = 0, is already a normal step: a CAPTURE has its word's
result out, a BUBBLE clears `out_valid`, a HOLD keeps the registers of the reset. -/
def Obligations.OneResetEdgeBoots : Prop :=
  ∀ s : State, s.ports.rst = true → ∃ t, step s = .next t ∧
    t.outValid = State.reset.outValid ∧ t.outImm = State.reset.outImm ∧
    (t.ports.isCapture = true →
      ∃ u, step t = .next u ∧ u.result = some (immB t.ports.inInstr)) ∧
    (t.ports.isBubble = true → ∃ u, step t = .next u ∧ u.outValid = false) ∧
    (t.ports.isHold = true → ∃ u, step t = .next u ∧
      u.outValid = State.reset.outValid ∧ u.outImm = State.reset.outImm)

/-- spec/70_reset_and_hazards.md R142, R143 and spec/95_test_vectors.md T10: one edge that is no HOLD
makes the run forget the registers it started with, the power-on draw among them. A reset or a
CAPTURE does so by R140 and R101; where the edge is a BUBBLE the statement compares the register
`out_imm` after it, which rests on spec/41_stage_cycle.md R103's Effect line (log entry 10,
DEDUCED). -/
def Obligations.OneNonHoldEdgeForgetsRegisters : Prop :=
  ∀ (n : Nat) (s s' t t' : State), SameInputs s s' →
    (∃ j, j < n ∧ (s.portsAt j).isHold = false) →
    runEdges n s = .next t → runEdges n s' = .next t' → t = t'

/-- spec/70_reset_and_hazards.md R141, R146: whatever `out_imm` holds while `out_valid` = 0, after a
reset or a bubble, no run lets a consumer tell: two states with the same result (or none) and the
same inputs stay so, and the same words are taken. -/
def Obligations.InvalidImmediateNeverSeen : Prop :=
  ∀ (n : Nat) (s s' t t' : State), SameInputs s s' → SameToConsumer s s' →
    runEdges n s = .next t → runEdges n s' = .next t' →
    SameToConsumer t t' ∧ takenWords n s = takenWords n s'
end

