-- ==== Sys2Proof/Laws/State.lean ====
section
/-! SUPPORT. One lemma per field per update of State, and the ports of an updated state. -/

namespace Sys2Proof.Machine

@[simp] theorem latch_outValid (s : State) (v : Bool) (i : Word) :
    (s.latch v i).outValid = v := rfl
@[simp] theorem latch_outImm (s : State) (v : Bool) (i : Word) :
    (s.latch v i).outImm = i := rfl
@[simp] theorem latch_stimulus (s : State) (v : Bool) (i : Word) :
    (s.latch v i).stimulus = s.stimulus := rfl
@[simp] theorem latch_edge (s : State) (v : Bool) (i : Word) :
    (s.latch v i).edge = s.edge := rfl

@[simp] theorem tick_outValid (s : State) : s.tick.outValid = s.outValid := rfl
@[simp] theorem tick_outImm (s : State) : s.tick.outImm = s.outImm := rfl
@[simp] theorem tick_stimulus (s : State) : s.tick.stimulus = s.stimulus.tail := rfl
@[simp] theorem tick_edge (s : State) : s.tick.edge = s.edge + 1 := rfl

/-- A later latch overrides an earlier one: no register value survives it. -/
@[simp] theorem latch_latch (s : State) (v v' : Bool) (i i' : Word) :
    (s.latch v i).latch v' i' = s.latch v' i' := rfl

/-- Latching a state's own registers is no change (HOLD). -/
@[simp] theorem latch_self (s : State) : s.latch s.outValid s.outImm = s := rfl

/-- Latching the registers as they were before the environment moved on is no change (HOLD). -/
@[simp] theorem tick_latch_self (s : State) : s.tick.latch s.outValid s.outImm = s.tick := rfl

@[simp] theorem latch_ports (s : State) (v : Bool) (i : Word) :
    (s.latch v i).ports = s.ports := rfl

@[simp] theorem latch_portsAt (s : State) (v : Bool) (i : Word) (n : Nat) :
    (s.latch v i).portsAt n = s.portsAt n := rfl

/-- The next edge's ports are the ports at distance 0. -/
theorem portsAt_zero (s : State) : s.portsAt 0 = s.ports := by
  unfold State.portsAt State.ports
  cases s.stimulus <;> rfl

/-- After an edge every later edge is one nearer. -/
@[simp] theorem tick_portsAt (s : State) (n : Nat) : s.tick.portsAt n = s.portsAt (n + 1) := by
  simp only [State.portsAt, tick_stimulus, tick_edge, List.getElem?_tail]
  rw [Nat.add_assoc, Nat.add_comm 1 n]

end Sys2Proof.Machine
end

