-- ==== Sys2Proof/Laws/Exec.lean ====
section
/-! SUPPORT. What the meanings can do, said once. -/

namespace Sys2Proof.Machine

/-- Whatever the instruction, it latches some pair into the two registers and does nothing else. -/
theorem exec_latches (i : Instr) (s : State) : ∃ v imm, exec i s = .next (s.latch v imm) := by
  cases i <;> exact ⟨_, _, rfl⟩

/-- An instruction that answers a next state leaves the environment's inputs alone. -/
theorem exec_keeps_inputs (i : Instr) (s t : State) (h : exec i s = .next t) :
    t.stimulus = s.stimulus ∧ t.edge = s.edge := by
  obtain ⟨v, imm, e⟩ := exec_latches i s
  cases e.symm.trans h
  exact ⟨rfl, rfl⟩

end Sys2Proof.Machine
end

