-- ==== Sys2Proof/Laws/PerInstr.lean ====
section
/-! SUPPORT. The family EncodedMatchesRow: the bits the encoder writes for an instruction have the
bits that instruction's row of spec/opcode_table.json fixes. -/

namespace Sys2Proof.Laws

/-- A mask of the three control bits reads the control value through the word above it. -/
theorem and_seven (c n : Nat) : (c + 256 * n) &&& 0b111 = c % 8 := by
  have h := Nat.and_two_pow_sub_one_eq_mod (c + 256 * n) 3
  simp only [show (2 ^ 3 - 1 : Nat) = 0b111 from rfl] at h
  rw [h]; omega

namespace EncodedMatchesRow

/-- The encoded bits fit the instruction's own row of the opcode table. -/
def Statement (i : Instr) : Prop := i.row.fits (encodeBits i).2 = true

theorem immdecB (w : Word) : Statement (.immdecB w) := by
  simp [Statement, TableRow.fits, Instr.row]

theorem reset : Statement .reset := by
  unfold Statement; decide

theorem hold : Statement .hold := by
  unfold Statement; decide

theorem capture (w : Word) : Statement (.capture w) := by
  have h := and_seven 1 w.toNat
  simpa [Statement, TableRow.fits, Instr.row, encodeBits, encode, Encoding.bits, Ports.control]
    using h

theorem bubble (w : Word) : Statement (.bubble w) := by
  have h := and_seven 0 w.toNat
  simpa [Statement, TableRow.fits, Instr.row, encodeBits, encode, Encoding.bits, Ports.control]
    using h

end EncodedMatchesRow

end Sys2Proof.Laws
end

