-- ==== Sys2Proof/Laws/Step.lean ====
section
/-! SUPPORT. What one edge and a run of edges can do, said once: the step has four cases, and a run
of `n + 1` edges is an edge and a run of `n`, or a run of `n` and an edge. -/

namespace Sys2Proof.Machine

/-- The four cases of an edge, with the inputs that select each (inversion of `step`). -/
theorem step_cases (s t : State) (h : step s = .next t) :
    (s.ports.isReset = true ∧ t = s.tick.latch false Config.outImmReset) ∨
    (s.ports.isHold = true ∧ t = s.tick) ∨
    (s.ports.isCapture = true ∧ t = s.tick.latch true (immB s.ports.inInstr)) ∨
    (s.ports.isBubble = true ∧ t = s.tick.latch false (immB s.ports.inInstr)) := by
  rcases hp : s.ports with ⟨_ | _, _ | _, _ | _, w⟩ <;>
    simp only [step, hp, decode, decodePorts, exec] at h <;> cases h <;>
    simp [Ports.isReset, Ports.isHold, Ports.isCapture, Ports.isBubble]

/-- Inputs to come after an edge: each later edge is one nearer. -/
theorem step_portsAt (s t : State) (h : step s = .next t) (n : Nat) :
    t.portsAt n = s.portsAt (n + 1) := by
  obtain ⟨v, imm, e⟩ := exec_latches (decode (.edge s.ports)) s.tick
  cases e.symm.trans h
  simp

end Sys2Proof.Machine

namespace Sys2Proof.Safety

open Sys2Proof.Machine

@[simp] theorem runEdges_zero (s : State) : runEdges 0 s = .next s := rfl

/-- A run starts with its first edge. -/
theorem runEdges_succ_of_step (n : Nat) (s t : State) (h : step s = .next t) :
    runEdges (n + 1) s = runEdges n t := by
  have h' : Sys2Proof.core.step s = .next t := h
  simp only [runEdges, Host.Core.run, h']
  rfl

/-- Every edge has a next state, read off `exec_latches`. -/
theorem step_latches (s : State) : ∃ v imm, step s = .next (s.tick.latch v imm) :=
  exec_latches (decode (.edge s.ports)) s.tick

/-- A run of `n + 1` edges that ends in `t` is one edge to some `u` and a run of `n` from it. -/
theorem runEdges_succ_inv (n : Nat) (s t : State) (h : runEdges (n + 1) s = .next t) :
    ∃ u, step s = .next u ∧ runEdges n u = .next t := by
  obtain ⟨v, imm, e⟩ := step_latches s
  exact ⟨_, e, (runEdges_succ_of_step n s _ e).symm.trans h⟩

/-- After `n` edges, the inputs to come are those that stood `n` edges further off. -/
theorem runEdges_portsAt (n : Nat) : ∀ (s t : State), runEdges n s = .next t →
    ∀ k, t.portsAt k = s.portsAt (n + k) := by
  induction n with
  | zero =>
    intro s t h k
    cases h
    rw [Nat.zero_add]
  | succ n ih =>
    intro s t h k
    obtain ⟨u, hu, hr⟩ := runEdges_succ_inv n s t h
    rw [ih u t hr k, step_portsAt s u hu, Nat.add_right_comm]

end Sys2Proof.Safety
end

