-- ==== Sys2Proof/Tests/Slice0.lean ====
section
/-! SUPPORT. The model's own tests, their expected results taken from spec/95_test_vectors.md and the
worked examples of the rules; the smoke test of the well-formedness checks; and, for every statement
with hypotheses, a witness that meets them (`witness_<statement>`). -/

namespace Sys2Proof.Tests

open Sys2Proof.Machine Sys2Proof.Safety

/-- A state with the given registers and inputs to come. -/
def mk (v : Bool) (imm : Word) (inputs : List Ports) : State :=
  { outValid := v, outImm := imm, stimulus := inputs, edge := 0 }

/-- Inputs of one edge, in the order of spec/95_test_vectors.md section 2.3. -/
def inp (rst stall inValid : Bool) (w : Word) : Ports :=
  { rst := rst, stall := stall, inValid := inValid, inInstr := w }

/-- The two registers of a next state. -/
def regs : Host.Outcome State Fault Refusal → Option (Bool × Word)
  | .next t => some (t.outValid, t.outImm)
  | .fault _ => none
  | .refused _ => none

/-! ### Well-formedness: one ill-formed term for each check -/

theorem test_wf_accepts_largest : RawInput.wf { rst := 1, stall := 1, inValid := 1, inInstr := 0xFFFFFFFF } = true := by decide
theorem test_wf_refuses_rst_two : RawInput.wf { rst := 2, stall := 0, inValid := 0, inInstr := 0 } = false := by decide
theorem test_wf_refuses_stall_two : RawInput.wf { rst := 0, stall := 2, inValid := 0, inInstr := 0 } = false := by decide
theorem test_wf_refuses_inValid_two : RawInput.wf { rst := 0, stall := 0, inValid := 2, inInstr := 0 } = false := by decide
theorem test_wf_refuses_wide_word : RawInput.wf { rst := 0, stall := 0, inValid := 0, inInstr := 0x100000000 } = false := by decide

/-! ### Refusals of the decoder, by name -/

theorem test_toPorts_names_rst : RawInput.toPorts { rst := 2, stall := 2, inValid := 0, inInstr := 0 } = .error .rstNotABit := by decide
theorem test_toPorts_names_stall : RawInput.toPorts { rst := 0, stall := 2, inValid := 0, inInstr := 0 } = .error .stallNotABit := by decide
theorem test_toPorts_names_inValid : RawInput.toPorts { rst := 0, stall := 0, inValid := 2, inInstr := 0 } = .error .inValidNotABit := by decide
theorem test_toPorts_names_invalidInput : RawInput.toPorts { rst := 0, stall := 0, inValid := 1, inInstr := 0x100000000 } = .error .invalidInput := by decide
theorem test_decodeBits_refuses_stray_control : decodeBits 8 0b1000 = .error .strayControlBits := by decide
theorem test_decodeBits_refuses_other_length : decodeBits 16 0 = .error .noSuchLength := by decide

/-! ### Decoding: bits written out from spec/opcode_table.json and spec/30_encoding.md R61 -/

/-- The document's word 0xFE6296E3, fields as spec/95_test_vectors.md S1 corrects them. -/
theorem test_decode_immdecB_document_word : decodeTableWord 32 0b1_111111_0011000101001_0110_1_1100011 = some (.immdecB 0xFE6296E3#32) := by decide
theorem test_fields_of_document_word : (fImm12 0xFE6296E3#32, fImm10_5 0xFE6296E3#32, fImm4_1 0xFE6296E3#32, fImm11 0xFE6296E3#32) = (1#1, 0b111111#6, 0b0110#4, 1#1) := by decide
theorem test_decode_reset : decodeTableWord 8 0b100 = some .reset := by decide
theorem test_decode_hold : decodeTableWord 8 0b010 = some .hold := by decide
theorem test_decode_capture : decodeTableWord 40 (0b001 + 256 * 0x00000463) = some (.capture 0x00000463#32) := by decide
theorem test_decode_bubble : decodeTableWord 40 (0b000 + 256 * 0x00000100) = some (.bubble 0x00000100#32) := by decide
/-- spec/95_test_vectors.md 2.2. -/
theorem test_encB_minus_2050 : encB (-2050) = 0xFE000F00#32 := by decide
theorem test_encB_2046 : encB 2046 = 0x7E000F00#32 := by decide

/-! ### Meanings -/

/-- spec/95_test_vectors.md 2.1: `imm11` alone lands at bit 11, not bit 7. -/
theorem test_immdecB_imm11_alone : regs (exec (.immdecB 0x00000080#32) (mk false 7 [])) = some (true, 0x00000800#32) := by decide
/-- spec/95_test_vectors.md 2.1: sign and imm11. -/
theorem test_immdecB_sign_and_imm11 : regs (exec (.immdecB 0x8041D0E3#32) (mk false 7 [])) = some (true, 0xFFFFF800#32) := by decide
/-- spec/95_test_vectors.md T2. -/
theorem test_capture_replaces : regs (step (mk true 0xFFFFFFEC#32 [inp false false true 0x00000463#32])) = some (true, 0x00000008#32) := by decide
/-- spec/95_test_vectors.md T10. -/
theorem test_capture_from_power_on : regs (step { State.powerOn with stimulus := [inp false false true 0x80000000#32] }) = some (true, 0xFFFFF000#32) := by decide
/-- spec/95_test_vectors.md T3. -/
theorem test_hold_drops_word : regs (step (mk true 0x00000008#32 [inp false true true 0x80000000#32])) = some (true, 0x00000008#32) := by decide
/-- spec/95_test_vectors.md T9. -/
theorem test_hold_keeps_power_on_draw : regs (step { State.powerOn with stimulus := [inp false true true 0xFE6296E3#32] }) = some (Config.powerOnValid, Config.powerOnImm) := rfl
/-- spec/95_test_vectors.md T5. -/
theorem test_bubble_runs_data_path : regs (step (mk true 0x00000008#32 [inp false false false 0x00000100#32])) = some (false, 0x00000002#32) := by decide
/-- spec/95_test_vectors.md P2, e5. -/
theorem test_bubble_all_ones : regs (step (mk true 0xFFFFFFF8#32 [inp false false false 0xFFFFFFFF#32])) = some (false, 0xFFFFFFFE#32) := by decide
/-- spec/95_test_vectors.md T6. -/
theorem test_reset_over_valid : regs (step (mk true 0x00000008#32 [inp true false true 0xFE6296E3#32])) = some (false, Config.outImmReset) := rfl
/-- spec/95_test_vectors.md T7. -/
theorem test_reset_over_stall : regs (step (mk true 0x00000008#32 [inp true true true 0xFE6296E3#32])) = some (false, Config.outImmReset) := rfl
/-- spec/95_test_vectors.md T1, through the host's placing of the word. -/
theorem test_first_word_after_reset : regs (step (State.reset.withFetchWord 32 0xFE6296E3)) = some (true, 0xFFFFFFEC#32) := by decide
/-- A consumer takes each result once, in order (spec/95_test_vectors.md P2, e4 and e5). -/
theorem test_taken_once_over_stall :
    takenWords 3 (mk true 0x00000FFE#32 [inp false true true 0xFE20CCE3#32, inp false false true 0xFE20CCE3#32, inp false false false 0xFFFFFFFF#32]) = [0x00000FFE#32, 0xFFFFFFF8#32] := by decide

/-! ### Witnesses: each statement's hypotheses, met together -/

/-- Both ends of the range of offsets (R66, R70, R89). -/
theorem witness_OffsetRoundTrip_low : (-4096 : Int) ≤ -4096 ∧ (-4096 : Int) ≤ 4094 ∧ (-4096 : Int) % 2 = 0 ∧ (immB (encB (-4096))).toInt = -4096 := by decide
theorem witness_OffsetRoundTrip_high : (-4096 : Int) ≤ 4094 ∧ (4094 : Int) ≤ 4094 ∧ (4094 : Int) % 2 = 0 ∧ (immB (encB 4094)).toInt = 4094 := by decide
theorem witness_EncBFieldsCarryOffset : (encB (-4096)).getLsbD 31 = true ∧ (encB 4094).getLsbD 7 = true ∧ (encB 4094).getLsbD 6 = false ∧ (encB 4094).getLsbD 12 = false ∧ (encB 4094).getLsbD 24 = false := by decide
theorem witness_ResultsAreExactlyEvenOffsets : (immB 0x80000000#32).toNat = 0xFFFFF000 ∧ (immB 0x7E000F80#32).toNat = 0x00000FFE := by decide
theorem witness_ResultBitByBit : (immB 0x80000000#32).getLsbD 12 = true ∧ (immB 0x80000000#32).getLsbD 31 = true ∧ (immB 0x80000000#32).getLsbD 11 = false := by decide
/-- Two words that differ in ignored bits alone. -/
theorem witness_IgnoredBitsNeverMatter : ∀ i, i < 32 → ¬ (12 ≤ i ∧ i ≤ 24) → ¬ i ≤ 6 → (0#32).getLsbD i = (0x01FFF07F#32).getLsbD i := by decide
theorem witness_SignExtensionLaw : (raw13 0x80000000#32).getLsbD 12 = true ∧ (raw13 0x7E000F80#32).getLsbD 12 = false := by decide

/-- The inputs of the four kinds of edges (R100 to R104, R140). -/
theorem witness_CaptureEdge : (mk false 7 [inp false false true 3]).ports.rst = false ∧ (mk false 7 [inp false false true 3]).ports.stall = false ∧ (mk false 7 [inp false false true 3]).ports.inValid = true := by decide
theorem witness_CaptureEdge_twice : exec (.capture 0x00000100#32) (mk false 7 []) = .next (mk true (immB 0x00000100#32) []) := rfl
theorem witness_HoldEdge : (mk true 8 [inp false true true 0x80000000#32]).ports.rst = false ∧ (mk true 8 [inp false true true 0x80000000#32]).ports.stall = true := by decide
theorem witness_HoldEdge_example : (mk true 8 [inp false true true 0x80000000#32]).outValid = true ∧ (mk true 8 [inp false true true 0x80000000#32]).outImm = 0x00000008#32 ∧ (mk true 8 [inp false true true 0x80000000#32]).ports = { rst := false, stall := true, inValid := true, inInstr := 0x80000000#32 } := by decide
theorem witness_BubbleEdge : (mk true 7 [inp false false false 3]).ports.rst = false ∧ (mk true 7 [inp false false false 3]).ports.stall = false ∧ (mk true 7 [inp false false false 3]).ports.inValid = false := by decide
theorem witness_ResetEdge : (mk true 7 [inp true true true 3]).ports.rst = true := by decide
/-- The same four kinds of inputs select the four clauses of R104. -/
theorem witness_ResetOverStallOverValid : (inp true true true 3).isReset = true ∧ (inp false true true 3).isHold = true ∧ (inp false false true 3).isCapture = true ∧ (inp false false false 3).isBubble = true := by decide
theorem witness_CapturingEdgeRunsImmdecB : (mk true 7 [inp false false true 3]).ports.isCapture = true := by decide

/-- A placed row of each length is decoded. -/
theorem witness_PlacedInstructionRunsNext : decodeTableWord 32 0xFFFFFFFF = some (.immdecB 0xFFFFFFFF#32) ∧ decodeTableWord 8 0b111 = some .reset ∧ decodeTableWord 40 0xFFFFFFFF01 = some (.capture 0xFFFFFFFF#32) := by decide
theorem witness_EarlierInstructionsLeaveNoHazard : exec .reset (mk true 7 []) = .next (mk false Config.outImmReset []) := rfl
theorem witness_EncodedBitsDecodeBack : Instr.wf (.capture 0xFFFFFFFF#32) = true ∧ encodeBits (.capture 0xFFFFFFFF#32) = (40, 0xFFFFFFFF01) := by decide
/-- The last number that is a word, and the first that is none. -/
theorem witness_EveryWordIsOneImmdecB : (0xFFFFFFFF : Nat) < 2 ^ 32 ∧ (2 : Nat) ^ 32 ≤ 0x100000000 ∧ decodeBits 32 0xFFFFFFFF = .ok (.immdecB 0xFFFFFFFF#32) ∧ decodeBits 32 0x100000000 = .error .invalidInput := by decide
theorem witness_RawInputAcceptedUnchanged : RawInput.toPorts { rst := 1, stall := 0, inValid := 1, inInstr := 0xFFFFFFFF } = .ok (inp true false true 0xFFFFFFFF#32) := by decide

/-- A good state with a valid result and its step (a HOLD, the case where goodness is carried). -/
theorem witness_StepKeepsValidIsImmediate : ValidIsImmediate (mk true 2 [inp false true true 3]) ∧ (mk true 2 [inp false true true 3]).outValid = true ∧ step (mk true 2 [inp false true true 3]) = .next { outValid := true, outImm := 2, stimulus := [], edge := 1 } :=
  ⟨fun _ => ⟨0x00000100#32, by decide⟩, rfl, rfl⟩

/-- Inputs of a run: a reset, a capture of 0x463, a hold. -/
def resetCaptureHold : List Ports := [inp true false false 0, inp false false true 0x00000463#32, inp false true true 9]

theorem witness_ValidResultIsLastCapture : runEdges 3 (mk true 1 resetCaptureHold) = .next { outValid := true, outImm := immB 0x00000463#32, stimulus := [], edge := 3 } ∧ (∃ j, j < 3 ∧ ((mk true 1 resetCaptureHold).portsAt j).rst = true) :=
  ⟨rfl, 0, by decide, rfl⟩
theorem witness_HoldsCarryPowerOnDraw : ∀ j, j < 2 → ((mk true 1 [inp false true true 3, inp false true false 4]).portsAt j).isHold = true := by decide
theorem witness_ResultOneEdgeLaterThroughHolds : ((mk true 1 resetCaptureHold).portsAt 1).isCapture = true ∧ (∀ j, j < 3 → 1 < j → j ≤ 1 + 1 → ((mk true 1 resetCaptureHold).portsAt j).isHold = true) := by decide
/-- The run of `witness_ValidResultIsLastCapture` has no edge that resets and stalls at once. -/
theorem witness_ResultsTakenInOrderOnceEach : ∀ j, j < 3 → ¬ (((mk true 1 resetCaptureHold).portsAt j).rst = true ∧ ((mk true 1 resetCaptureHold).portsAt j).stall = true) := by decide
theorem witness_ResetDuringStallDiscards : (mk true 7 [inp true true true 3]).ports.rst = true ∧ (mk true 7 [inp true true true 3]).ports.stall = true ∧ inFlight (mk true 7 [inp true true true 3]) = [7#32] := by decide
theorem witness_StalledResultStaysUntaken : (mk true 7 [inp false true true 3]).ports.isHold = true ∧ (mk true 7 [inp false true true 3]).result = some 7 := by decide
/-- Two samples that differ in the word and in `in_valid`, blocked by a stall and by a reset. -/
theorem witness_BlockedWordLeavesNoTrace : (inp false true true 3).stall = true ∧ (inp false true false 4).stall = true ∧ (inp false true true 3).rst = (inp false true false 4).rst ∧ (inp true false true 3).rst = true ∧ (inp true false true 3).stall = (inp true false false 4).stall := by decide

/-- Inputs that keep a word through a stall and a reset. -/
def heldWord : List Ports := [inp false true true 0x00000463#32, inp true false true 0x00000463#32, inp false false true 0x00000463#32]

theorem witness_HeldWordIsDecoded : UpstreamHolds 2 (mk true 1 heldWord) ∧ ((mk true 1 heldWord).portsAt 0).inValid = true ∧ (∀ j, j < 2 → ((mk true 1 heldWord).portsAt j).stall = true ∨ ((mk true 1 heldWord).portsAt j).rst = true) ∧ ((mk true 1 heldWord).portsAt 2).stall = false ∧ ((mk true 1 heldWord).portsAt 2).rst = false := by
  unfold UpstreamHolds; decide
/-- A reset edge followed by an edge of each of the three kinds. -/
theorem witness_OneResetEdgeBoots : (mk true 1 resetCaptureHold).ports.rst = true ∧ (mk true 1 resetCaptureHold).tick.ports.isCapture = true ∧ (mk true 1 [inp true false false 0, inp false false false 3]).tick.ports.isBubble = true ∧ (mk true 1 [inp true false false 0, inp false true true 3]).tick.ports.isHold = true := by decide

/-- Two different power-on draws with the same inputs, the second of which is no HOLD. -/
theorem witness_OneNonHoldEdgeForgetsRegisters : SameInputs (mk true 1 heldWord) (mk false 2 heldWord) ∧ (∃ j, j < 2 ∧ ((mk true 1 heldWord).portsAt j).isHold = false) ∧ mk true 1 heldWord ≠ mk false 2 heldWord :=
  ⟨⟨rfl, rfl⟩, ⟨1, by decide, rfl⟩, by decide⟩
theorem witness_OneNonHoldEdgeForgetsRegisters_runs : (∃ t, runEdges 2 (mk true 1 heldWord) = .next t) ∧ (∃ t, runEdges 2 (mk false 2 heldWord) = .next t) :=
  ⟨⟨_, rfl⟩, ⟨_, rfl⟩⟩
/-- Two states that differ in an `out_imm` that is not valid. -/
theorem witness_InvalidImmediateNeverSeen : SameInputs (mk false 1 heldWord) (mk false 2 heldWord) ∧ SameToConsumer (mk false 1 heldWord) (mk false 2 heldWord) ∧ mk false 1 heldWord ≠ mk false 2 heldWord :=
  ⟨⟨rfl, rfl⟩, rfl, by decide⟩
theorem witness_InvalidImmediateNeverSeen_runs : (∃ t, runEdges 2 (mk false 1 heldWord) = .next t) ∧ (∃ t, runEdges 2 (mk false 2 heldWord) = .next t) :=
  ⟨⟨_, rfl⟩, ⟨_, rfl⟩⟩

end Sys2Proof.Tests
end

section
/-! The boundary check of raw numbers (spec/60_exceptions.md R121), the assembly of `raw13` from the
four fields (spec/30_encoding.md R63), and the statements of spec/10_state.md that follow. -/

namespace Sys2Proof

/-! ### Raw numbers and port values -/

/-- Well-formedness as bounds on the four numbers. -/
theorem RawInput.wf_iff (r : RawInput) :
    r.wf = true ↔ r.rst < 2 ∧ r.stall < 2 ∧ r.inValid < 2 ∧ r.inInstr < 2 ^ 32 := by
  simp [RawInput.wf, isPortBit, fitsInWord, and_assoc]

/-- What `toPorts` accepts, and the port values it answers: each check it makes is one conjunct of
`wf`. -/
theorem RawInput.toPorts_eq_ok_iff (r : RawInput) (p : Ports) :
    r.toPorts = .ok p ↔ r.wf = true ∧
      p = { rst := r.rst == 1, stall := r.stall == 1, inValid := r.inValid == 1,
            inInstr := BitVec.ofNat 32 r.inInstr } := by
  unfold RawInput.toPorts RawInput.wf
  cases isPortBit r.rst
  case false => simp
  cases isPortBit r.stall
  case false => simp
  cases isPortBit r.inValid
  case false => simp
  cases fitsInWord r.inInstr
  case false => simp
  simp [eq_comm]

/-- A port bit is read back from the Boolean it becomes. -/
theorem toNat_beq_one_of_lt_two {n : Nat} (h : n < 2) : (n == 1).toNat = n := by
  obtain rfl | rfl := Nat.le_one_iff_eq_zero_or_eq_one.mp (Nat.le_of_lt_succ h) <;> rfl

/-- Settles O31: the bounds `wf` checks are those under which no number is truncated. -/
theorem rawInputAcceptedUnchanged : Obligations.RawInputAcceptedUnchanged := by
  intro r
  refine ⟨⟨fun hwf => ⟨_, (r.toPorts_eq_ok_iff _).mpr ⟨hwf, rfl⟩⟩, ?_⟩, ?_⟩
  · rintro ⟨p, hp⟩
    exact ((r.toPorts_eq_ok_iff p).mp hp).1
  · intro p hp
    obtain ⟨hwf, rfl⟩ := (r.toPorts_eq_ok_iff p).mp hp
    obtain ⟨hrst, hstall, hvalid, hword⟩ := r.wf_iff.mp hwf
    exact ⟨toNat_beq_one_of_lt_two hrst, toNat_beq_one_of_lt_two hstall,
      toNat_beq_one_of_lt_two hvalid, Nat.mod_eq_of_lt hword⟩

/-! ### The assembly of `raw13` -/

namespace Machine

/-- The mask of spec/30_encoding.md R63 covers all 13 bits, so it changes nothing. -/
theorem raw13_eq_placedFields (w : Word) : raw13 w = placedFields w := BitVec.and_allOnes

/-- A field that fits below bit 13 loses no bit when it is placed at bit `k`. -/
theorem toNat_setWidth_shiftLeft {n k : Nat} (x : BitVec n) (h : n + k ≤ 13) :
    (x.setWidth 13 <<< k).toNat = x.toNat <<< k := by
  have hlt : x.toNat <<< k < 2 ^ 13 :=
    Nat.lt_of_lt_of_le (Nat.shiftLeft_lt x.isLt) (Nat.pow_le_pow_right (by decide) h)
  rw [BitVec.toNat_shiftLeft, BitVec.toNat_setWidth_of_le (by omega), Nat.mod_eq_of_lt hlt]

/-- The OR of the placed fields, on numbers. -/
theorem toNat_placedFields (w : Word) :
    (placedFields w).toNat = (fImm12 w).toNat <<< 12 ||| (fImm11 w).toNat <<< 11
      ||| (fImm10_5 w).toNat <<< 5 ||| (fImm4_1 w).toNat <<< 1 := by
  simp [placedFields, toNat_setWidth_shiftLeft, -BitVec.toNat_shiftLeft]

/-- The fields side by side with a 0 below them: the same OR on numbers, since each `++` shifts what
is left of it. -/
theorem toNat_appendedFields (w : Word) :
    (fImm12 w ++ fImm11 w ++ fImm10_5 w ++ fImm4_1 w ++ 0#1).toNat =
      (fImm12 w).toNat <<< 12 ||| (fImm11 w).toNat <<< 11
        ||| (fImm10_5 w).toNat <<< 5 ||| (fImm4_1 w).toNat <<< 1 := by
  simp only [BitVec.toNat_append, BitVec.toNat_ofNat, Nat.zero_mod, Nat.or_zero,
    Nat.shiftLeft_or_distrib, ← Nat.shiftLeft_add]

/-- `raw13` is the concatenation of spec/30_encoding.md R63. -/
theorem raw13_eq_append (w : Word) :
    raw13 w = fImm12 w ++ fImm11 w ++ fImm10_5 w ++ fImm4_1 w ++ 0#1 := by
  apply BitVec.eq_of_toNat_eq
  rw [raw13_eq_placedFields, toNat_placedFields]
  exact (toNat_appendedFields w).symm

end Machine

/-! ### Outputs and internal signals -/

/-- Settles O32: the output ports read the two registers and no other field of the state. -/
theorem outputsComeFromRegisters : Obligations.OutputsComeFromRegisters :=
  fun _ _ _ => ⟨rfl, rfl, rfl, rfl⟩

/-- Settles O33: each field signal is its slice by definition, `raw13` by `raw13_eq_append`. -/
theorem internalSignalsOfInInstr : Obligations.InternalSignalsOfInInstr :=
  fun s => ⟨rfl, rfl, rfl, rfl, Machine.raw13_eq_append s.ports.inInstr, rfl⟩

end Sys2Proof
end

section
/-! The order of results (spec/20_memory.md R48): an edge neither loses nor repeats a result, since
what is taken at it and in flight after it is what was in flight before it and then the result of
the word it captures. A run keeps the same account, edge by edge. -/

namespace Sys2Proof

open Sys2Proof.Machine

/-! ### What the kind of an edge says of its inputs -/

theorem Ports.stall_of_isHold {p : Ports} (h : p.isHold = true) : p.stall = true :=
  (Bool.and_eq_true_iff.mp h).2

theorem Ports.stall_of_isCapture {p : Ports} (h : p.isCapture = true) : p.stall = false := by
  simp_all [Ports.isCapture]

theorem Ports.stall_of_isBubble {p : Ports} (h : p.isBubble = true) : p.stall = false := by
  simp_all [Ports.isBubble]

theorem Ports.captured_of_isCapture {p : Ports} (h : p.isCapture = true) :
    p.captured = some p.inInstr := if_pos h

theorem Ports.captured_of_isReset {p : Ports} (h : p.isReset = true) : p.captured = none := by
  simp_all [Ports.captured, Ports.isCapture, Ports.isReset]

theorem Ports.captured_of_isHold {p : Ports} (h : p.isHold = true) : p.captured = none := by
  simp_all [Ports.captured, Ports.isCapture, Ports.isHold]

theorem Ports.captured_of_isBubble {p : Ports} (h : p.isBubble = true) : p.captured = none := by
  simp_all [Ports.captured, Ports.isCapture, Ports.isBubble]

namespace Safety

/-! ### What is in flight and what is taken -/

@[simp] theorem inFlight_tick (s : State) : inFlight s.tick = inFlight s := rfl

@[simp] theorem inFlight_latch_true (s : State) (imm : Word) :
    inFlight (s.latch true imm) = [imm] := rfl

@[simp] theorem inFlight_latch_false (s : State) (imm : Word) :
    inFlight (s.latch false imm) = [] := rfl

theorem takenNow_of_stall {s : State} (h : s.ports.stall = true) : takenNow s = [] := if_pos h

theorem takenNow_of_no_stall {s : State} (h : s.ports.stall = false) : takenNow s = inFlight s :=
  if_neg (Bool.eq_false_iff.mp h)

/-- A run takes what its first edge takes, then what the edges after it take. -/
theorem takenWords_succ_of_step {s u : State} (h : step s = .next u) (n : Nat) :
    takenWords (n + 1) s = takenNow s ++ takenWords n u := by
  rw [takenWords, h]

/-- A run captures the word of its first edge, if it captures one, then those of the edges after
it. -/
theorem capturedWords_succ_of_step {s u : State} (h : step s = .next u) (n : Nat) :
    capturedWords (n + 1) s = s.ports.captured.toList ++ capturedWords n u := by
  simp only [capturedWords, List.range_succ_eq_map, List.filterMap_cons, List.filterMap_map,
    portsAt_zero, step_portsAt s u h]
  cases s.ports.captured <;> rfl

/-! ### The account of results, for an edge and for a run -/

/-- One edge: a stalled edge takes nothing and must keep the result (HOLD), any other takes the
result and then overwrites it, with the captured word's result or with none. -/
theorem step_conserves_results {s u : State} (h : step s = .next u)
    (hok : ¬ (s.ports.rst = true ∧ s.ports.stall = true)) :
    takenNow s ++ inFlight u = inFlight s ++ s.ports.captured.toList.map immB := by
  obtain ⟨hk, rfl⟩ | ⟨hk, rfl⟩ | ⟨hk, rfl⟩ | ⟨hk, rfl⟩ := step_cases s u h
  case inl => -- RESET: delivered only if the consumer is not stalled, which `hok` grants
    have hstall : s.ports.stall = false := Bool.eq_false_iff.mpr fun hs => hok ⟨hk, hs⟩
    simp [takenNow_of_no_stall hstall, Ports.captured_of_isReset hk]
  case inr.inl => -- HOLD
    simp [takenNow_of_stall (Ports.stall_of_isHold hk), Ports.captured_of_isHold hk]
  case inr.inr.inl => -- CAPTURE
    simp [takenNow_of_no_stall (Ports.stall_of_isCapture hk), Ports.captured_of_isCapture hk]
  case inr.inr.inr => -- BUBBLE
    simp [takenNow_of_no_stall (Ports.stall_of_isBubble hk), Ports.captured_of_isBubble hk]

/-- Settles O40, by induction over the run with the start state free: `step_conserves_results`
accounts for the first edge, the induction hypothesis for the run from the state after it. -/
theorem resultsTakenInOrderOnceEach : Obligations.ResultsTakenInOrderOnceEach := by
  intro n
  induction n with
  | zero =>
    intro s t hrun _
    cases hrun
    simp [takenWords, capturedWords]
  | succ n ih =>
    intro s t hrun hok
    obtain ⟨u, hstep, hrest⟩ := runEdges_succ_inv n s t hrun
    have hfirst : takenNow s ++ inFlight u = inFlight s ++ s.ports.captured.toList.map immB :=
      step_conserves_results hstep (portsAt_zero s ▸ hok 0 n.succ_pos)
    have hlater : takenWords n u ++ inFlight t = inFlight u ++ (capturedWords n u).map immB :=
      ih u t hrest fun j hj => step_portsAt s u hstep j ▸ hok (j + 1) (Nat.succ_lt_succ hj)
    calc takenWords (n + 1) s ++ inFlight t
        = takenNow s ++ (takenWords n u ++ inFlight t) := by
          rw [takenWords_succ_of_step hstep, List.append_assoc]
      _ = (takenNow s ++ inFlight u) ++ (capturedWords n u).map immB := by
          rw [hlater, List.append_assoc]
      _ = inFlight s ++ (capturedWords (n + 1) s).map immB := by
          rw [hfirst, capturedWords_succ_of_step hstep, List.map_append, List.append_assoc]

end Safety

end Sys2Proof
end

section
/-! Encoding and decoding (spec/30_encoding.md R67, R68, spec/41_stage_cycle.md R104): port values
pass the boundary check unchanged, so the numbers an encoding is written as read back as that
encoding, and the decoder gives every instruction back from them. -/

namespace Sys2Proof

/-- Values that come from ports pass every check of `toPorts`, and it changes none of them. -/
theorem RawInput.toPorts_of_ports (p : Ports) :
    RawInput.toPorts { rst := p.rst.toNat, stall := p.stall.toNat, inValid := p.inValid.toNat,
                       inInstr := p.inInstr.toNat } = .ok p := by
  rw [RawInput.toPorts_eq_ok_iff, RawInput.wf_iff]
  exact ⟨⟨p.rst.toNat_lt, p.stall.toNat_lt, p.inValid.toNat_lt, p.inInstr.isLt⟩, by simp⟩

/-- The control value is three bits, and `controlToEncoding` reads each port where it stands. -/
theorem Ports.control_bits (p : Ports) :
    p.control < 8 ∧ p.control / 4 = p.rst.toNat ∧ p.control / 2 % 2 = p.stall.toNat ∧
      p.control % 2 = p.inValid.toNat := by
  have hrst := p.rst.toNat_lt
  have hstall := p.stall.toNat_lt
  have hvalid := p.inValid.toNat_lt
  unfold Ports.control
  omega

theorem controlToEncoding_control (p : Ports) :
    controlToEncoding p.control p.inInstr.toNat = .ok (.edge p) := by
  obtain ⟨hlt, hrst, hstall, hvalid⟩ := p.control_bits
  rw [controlToEncoding, if_pos hlt, hrst, hstall, hvalid, RawInput.toPorts_of_ports]
  rfl

/-- The layout loses nothing: 32 bits hold a word; of the 40 bits of an edge the low 8 hold the
control value, which is below 256, and the others the word on `in_instr`. -/
theorem encodingOfBits_bits (e : Encoding) : encodingOfBits e.bits.1 e.bits.2 = .ok e := by
  cases e with
  | word w => simp [Encoding.bits, encodingOfBits, fitsInWord, w.isLt]
  | edge p =>
    obtain ⟨hlt, -⟩ := p.control_bits
    have hlow : (p.control + 256 * p.inInstr.toNat) % 256 = p.control := by omega
    have hhigh : (p.control + 256 * p.inInstr.toNat) / 256 = p.inInstr.toNat := by omega
    simp [Encoding.bits, encodingOfBits, hlow, hhigh, controlToEncoding_control]

theorem decode_encode (i : Instr) : decode (encode i) = i := by
  cases i <;> rfl

theorem decodeBits_encodeBits (i : Instr) :
    decodeBits (encodeBits i).1 (encodeBits i).2 = .ok i := by
  rw [decodeBits, encodeBits, encodingOfBits_bits, Except.map, decode_encode]

theorem decodeTableWord_encodeBits (i : Instr) :
    decodeTableWord (encodeBits i).1 (encodeBits i).2 = some i := by
  rw [decodeTableWord, decodeBits_encodeBits]
  rfl

theorem decodeBits_word_of_le {v : Nat} (h : 2 ^ 32 ≤ v) :
    decodeBits 32 v = .error .invalidInput := by
  have hwide : fitsInWord v = false := decide_eq_false (Nat.not_lt.mpr h)
  simp [decodeBits, encodingOfBits, hwide, Except.map]

/-- Settles O27: the bits read back as the encoding they were written from, and `decode` undoes
`encode` for each instruction. -/
theorem encodedBitsDecodeBack : Obligations.EncodedBitsDecodeBack :=
  fun i _ => decodeTableWord_encodeBits i

/-- Settles O28: a number that fits is the encoding of the `IMMDEC_B` with that number as its word,
so `decodeBits_encodeBits` gives the first half. -/
theorem everyWordIsOneImmdecB : Obligations.EveryWordIsOneImmdecB :=
  ⟨fun v hv => ⟨BitVec.ofNatLT v hv, decodeBits_encodeBits (.immdecB (BitVec.ofNatLT v hv)), rfl⟩,
    fun _ hv => decodeBits_word_of_le hv⟩

/-- Settles O29: the 32-bit and the 40-bit number are what the encoder writes; the 8-bit forms, some
with don't-care bits at 1, are evaluated. -/
theorem writtenOutBitsDecode : Obligations.WrittenOutBitsDecode :=
  ⟨decodeTableWord_encodeBits (.immdecB 0xFE6296E3#32), by decide, by decide, by decide, by decide,
    by decide, by decide, decodeTableWord_encodeBits (.capture 0xFE6296E3#32)⟩

end Sys2Proof
end

section
/-! Where the bits of the immediate stand (spec/30_encoding.md R61, R63, R65, R70): in the word, in
`raw13`, in the result and in `EncB`. Each is a concatenation of the four fields, so a field is read
back by the slice it was appended at. -/

namespace Sys2Proof.Machine

/-- Shift and mask, as spec/30_encoding.md R61 writes a field, are the slice. -/
theorem toNat_extractLsb'_eq_and (w : Word) (start len : Nat) :
    (w.extractLsb' start len).toNat = (w.toNat >>> start) &&& (2 ^ len - 1) := by
  rw [BitVec.extractLsb'_toNat, Nat.and_two_pow_sub_one_eq_mod]

/-- Two values with the same one-bit slice have the same bit there. -/
theorem getLsbD_eq_of_extractLsb'_eq {n m i j : Nat} {x : BitVec n} {y : BitVec m}
    (h : x.extractLsb' i 1 = y.extractLsb' j 1) : x.getLsbD i = y.getLsbD j := by
  simpa [BitVec.getLsbD_extractLsb'] using congrArg (·.getLsbD 0) h

/-! ### `raw13` and the result -/

/-- The slices of the layout that `raw13` (with `s` one bit wide) and the result (with `s` sign bits)
share. -/
theorem slices_of_immediate_layout {v : Nat} (s : BitVec v) (b11 : BitVec 1) (b10_5 : BitVec 6)
    (b4_1 : BitVec 4) :
    (s ++ b11 ++ b10_5 ++ b4_1 ++ 0#1).extractLsb' 12 v = s ∧
    (s ++ b11 ++ b10_5 ++ b4_1 ++ 0#1).extractLsb' 11 1 = b11 ∧
    (s ++ b11 ++ b10_5 ++ b4_1 ++ 0#1).extractLsb' 5 6 = b10_5 ∧
    (s ++ b11 ++ b10_5 ++ b4_1 ++ 0#1).extractLsb' 1 4 = b4_1 ∧
    (s ++ b11 ++ b10_5 ++ b4_1 ++ 0#1).getLsbD 0 = false := by
  refine ⟨?_, ?_, ?_, ?_, by simp only [BitVec.getLsbD_append]; rfl⟩ <;>
    simp [BitVec.extractLsb'_append_eq_of_le, BitVec.extractLsb'_append_eq_right,
      BitVec.extractLsb'_eq_self]

theorem slices_raw13 (w : Word) :
    (raw13 w).extractLsb' 12 1 = fImm12 w ∧
    (raw13 w).extractLsb' 11 1 = fImm11 w ∧
    (raw13 w).extractLsb' 5 6 = fImm10_5 w ∧
    (raw13 w).extractLsb' 1 4 = fImm4_1 w ∧
    (raw13 w).getLsbD 0 = false := by
  rw [raw13_eq_append]
  exact slices_of_immediate_layout _ _ _ _

/-- Sign extension of a concatenation extends its left part and leaves the right part alone. -/
theorem signExtend_append {n m v : Nat} (x : BitVec n) (y : BitVec m) (hn : 0 < n) :
    (x ++ y).signExtend (v + m) = x.signExtend v ++ y := by
  apply BitVec.eq_of_getLsbD_eq
  intro i hi
  simp only [BitVec.getLsbD_signExtend, BitVec.getLsbD_append, BitVec.msb_append, hn.ne', if_false,
    hi, decide_true, Bool.true_and]
  by_cases hright : i < m
  · simp [hright, Nat.lt_add_left n hright]
  · have hleft : i - m < v := by omega
    have hwidth : i < n + m ↔ i - m < n := by omega
    simp [hright, hleft, hwidth]

/-- The result is the closing formula of spec/30_encoding.md R65: of the concatenation R63 gives for
`raw13`, only the leftmost field is extended. -/
theorem immB_eq_bitwiseResult (w : Word) : immB w = Safety.bitwiseResult w := by
  rw [immB, raw13_eq_append, signExtend_append (v := 31) _ (0#1) (by decide),
    signExtend_append (v := 27) _ (fImm4_1 w) (by decide),
    signExtend_append (v := 21) _ (fImm10_5 w) (by decide),
    signExtend_append (v := 20) _ (fImm11 w) (by decide)]
  rfl

theorem slices_immB (w : Word) :
    (immB w).extractLsb' 12 20 = (fImm12 w).signExtend 20 ∧
    (immB w).extractLsb' 11 1 = fImm11 w ∧
    (immB w).extractLsb' 5 6 = fImm10_5 w ∧
    (immB w).extractLsb' 1 4 = fImm4_1 w ∧
    (immB w).getLsbD 0 = false := by
  rw [immB_eq_bitwiseResult]
  exact slices_of_immediate_layout _ _ _ _

/-- From bit 12 up every bit of the result is the sign bit of `raw13`, which is w[31]. -/
theorem getLsbD_immB_of_le (w : Word) {i : Nat} (hlo : 12 ≤ i) (hhi : i < 32) :
    (immB w).getLsbD i = w.getLsbD 31 := by
  obtain ⟨h12, -⟩ := slices_raw13 w
  have hsign : (raw13 w).getLsbD 12 = w.getLsbD 31 := getLsbD_eq_of_extractLsb'_eq h12
  rw [immB, BitVec.getLsbD_signExtend, BitVec.msb_eq_getLsbD_last]
  obtain rfl | hcopy := hlo.eq_or_lt
  · simpa using hsign
  · simpa [hhi, Nat.not_lt.mpr hcopy] using hsign

/-- Settles O1: the fields are the slices of the concatenation of spec/30_encoding.md R65. -/
theorem resultBitByBit : Obligations.ResultBitByBit := by
  intro w
  obtain ⟨-, h11, h10_5, h4_1, h0⟩ := slices_immB w
  exact ⟨fun _ => getLsbD_immB_of_le w, getLsbD_eq_of_extractLsb'_eq h11, h10_5, h4_1, h0,
    immB_eq_bitwiseResult w⟩

/-- Settles O2: `raw13` is the placed fields under the mask by definition; that the mask changes
nothing, and the concatenation, are `raw13_eq_placedFields` and `raw13_eq_append`. -/
theorem raw13IsAssembledFields : Obligations.Raw13IsAssembledFields := by
  intro w
  obtain ⟨-, -, -, -, h0⟩ := slices_raw13 w
  refine ⟨?_, raw13_eq_placedFields w, raw13_eq_append w, h0⟩
  rw [raw13, BitVec.toNat_and, toNat_placedFields]
  rfl

/-- Settles O3: shift and mask make the slice of each field, and the slices of `raw13` give the
fields back. -/
theorem fieldsAreShiftAndMask : Obligations.FieldsAreShiftAndMask := by
  intro w
  obtain ⟨h12, h11, h10_5, h4_1, -⟩ := slices_raw13 w
  exact ⟨toNat_extractLsb'_eq_and w 31 1, toNat_extractLsb'_eq_and w 25 6,
    toNat_extractLsb'_eq_and w 8 4, toNat_extractLsb'_eq_and w 7 1, h12, h10_5, h4_1, h11⟩

/-! ### `EncB` -/

/-- The slices of the layout of `encB`. With the left part's width open the whole width stays a sum,
the form the library's lemmas on `++` match. -/
theorem slices_of_encB_layout {v : Nat} (b12 : BitVec v) (b10_5 : BitVec 6) (b4_1 : BitVec 4)
    (b11 : BitVec 1) :
    (b12 ++ b10_5 ++ 0#13 ++ b4_1 ++ b11 ++ 0#7).extractLsb' 31 v = b12 ∧
    (b12 ++ b10_5 ++ 0#13 ++ b4_1 ++ b11 ++ 0#7).extractLsb' 25 6 = b10_5 ∧
    (b12 ++ b10_5 ++ 0#13 ++ b4_1 ++ b11 ++ 0#7).extractLsb' 12 13 = 0#13 ∧
    (b12 ++ b10_5 ++ 0#13 ++ b4_1 ++ b11 ++ 0#7).extractLsb' 8 4 = b4_1 ∧
    (b12 ++ b10_5 ++ 0#13 ++ b4_1 ++ b11 ++ 0#7).extractLsb' 7 1 = b11 ∧
    (b12 ++ b10_5 ++ 0#13 ++ b4_1 ++ b11 ++ 0#7).extractLsb' 0 7 = 0#7 := by
  simp [BitVec.extractLsb'_append_eq_of_le, BitVec.extractLsb'_append_eq_right,
    BitVec.extractLsb'_eq_self]

/-- The slices of `EncB` of an offset (spec/30_encoding.md R70). -/
theorem slices_encB (o : Int) :
    (encB o).extractLsb' 31 1 = (BitVec.ofInt 13 o).extractLsb' 12 1 ∧
    (encB o).extractLsb' 25 6 = (BitVec.ofInt 13 o).extractLsb' 5 6 ∧
    (encB o).extractLsb' 12 13 = 0#13 ∧
    (encB o).extractLsb' 8 4 = (BitVec.ofInt 13 o).extractLsb' 1 4 ∧
    (encB o).extractLsb' 7 1 = (BitVec.ofInt 13 o).extractLsb' 11 1 ∧
    (encB o).extractLsb' 0 7 = 0#7 :=
  slices_of_encB_layout _ _ _ _

theorem getLsbD_eq_false_of_extractLsb'_eq_zero {n start len i : Nat} {x : BitVec n}
    (h : x.extractLsb' start len = 0#len) (hlo : start ≤ i) (hhi : i < start + len) :
    x.getLsbD i = false := by
  have hi : i - start < len := by omega
  simpa [BitVec.getLsbD_extractLsb', hi, Nat.add_sub_cancel' hlo] using
    congrArg (·.getLsbD (i - start)) h

/-- The offsets of spec/30_encoding.md R66 are 13-bit two's complement values. -/
theorem toInt_ofInt_offset {o : Int} (hlo : -4096 ≤ o) (hhi : o ≤ 4094) :
    (BitVec.ofInt 13 o).toInt = o :=
  BitVec.toInt_ofInt_eq_self (by decide) hlo (by omega)

/-- Settles O13: u is the offset's 13-bit two's complement, and `slices_encB` finds it in `encB`. -/
theorem encBFieldsCarryOffset : Obligations.EncBFieldsCarryOffset := by
  intro o hlo hhi _
  obtain ⟨h12, h10_5, hzero, h4_1, h11, hzero'⟩ := slices_encB o
  refine ⟨BitVec.ofInt 13 o, toInt_ofInt_offset hlo hhi, getLsbD_eq_of_extractLsb'_eq h12, h10_5,
    h4_1, getLsbD_eq_of_extractLsb'_eq h11, ?_⟩
  rintro i (⟨hi, hi'⟩ | hi)
  · exact getLsbD_eq_false_of_extractLsb'_eq_zero hzero hi (by omega)
  · exact getLsbD_eq_false_of_extractLsb'_eq_zero hzero' i.zero_le (by omega)

end Sys2Proof.Machine
end

section
/-! The results as numbers (spec/30_encoding.md R66): the even integers a 13-bit two's complement
holds, each the result of its own `EncB`. -/

namespace Sys2Proof.Machine

theorem append_slices (u : Imm13) :
    u.extractLsb' 12 1 ++ u.extractLsb' 11 1 ++ u.extractLsb' 5 6 ++ u.extractLsb' 1 4
      ++ u.extractLsb' 0 1 = u := by
  iterate 4 rw [BitVec.extractLsb'_append_extractLsb'_eq_extractLsb' (by decide)]
  exact BitVec.extractLsb'_eq_self

theorem extractLsb'_zero_one_ofInt_of_even {o : Int} (heven : o % 2 = 0) :
    (BitVec.ofInt 13 o).extractLsb' 0 1 = 0#1 := by
  apply BitVec.eq_of_toNat_eq
  rw [BitVec.extractLsb'_toNat, BitVec.toNat_ofInt, Nat.shiftRight_zero, BitVec.toNat_ofNat]
  omega

/-- `raw13` assembles from the fields of `EncB` the offset they carry: bit 0, which no field
carries, is 0 in an even offset. -/
theorem raw13_encB {o : Int} (heven : o % 2 = 0) : raw13 (encB o) = BitVec.ofInt 13 o := by
  obtain ⟨h12, h10_5, -, h4_1, h11, -⟩ := slices_encB o
  rw [raw13_eq_append, fImm12, fImm11, fImm10_5, fImm4_1, h12, h11, h10_5, h4_1,
    ← extractLsb'_zero_one_ofInt_of_even heven, append_slices]

/-- Sign extension keeps the signed value. -/
theorem toInt_immB (w : Word) : (immB w).toInt = (raw13 w).toInt :=
  BitVec.toInt_signExtend_of_le (by decide)

/-- The round trip of an offset through `EncB`. -/
theorem toInt_immB_encB {o : Int} (hlo : -4096 ≤ o) (hhi : o ≤ 4094) (heven : o % 2 = 0) :
    (immB (encB o)).toInt = o := by
  rw [toInt_immB, raw13_encB heven, toInt_ofInt_offset hlo hhi]

theorem toNat_immB_even (w : Word) : (immB w).toNat % 2 = 0 := by
  obtain ⟨-, -, -, -, h0⟩ := slices_immB w
  rw [BitVec.getLsbD, Nat.testBit_zero, decide_eq_false_iff_not] at h0
  omega

/-- The signed range of 13 bits; an even result is not its upper end 4095. -/
theorem toInt_immB_bounds (w : Word) : -4096 ≤ (immB w).toInt ∧ (immB w).toInt ≤ 4094 := by
  have hlo : -4096 ≤ (immB w).toInt := toInt_immB w ▸ BitVec.le_toInt (raw13 w)
  have hhi : (immB w).toInt < 4096 := toInt_immB w ▸ BitVec.toInt_lt (x := raw13 w)
  have heven := toNat_immB_even w
  have hsigned := BitVec.toInt_eq_toNat_cond (immB w)
  omega

/-- The same range on the unsigned word, whose upper part holds the negative offsets. -/
theorem toNat_immB_range (w : Word) :
    (immB w).toNat ≤ 0x00000FFE ∨ (0xFFFFF000 ≤ (immB w).toNat ∧ (immB w).toNat ≤ 0xFFFFFFFE) := by
  obtain ⟨hlo, hhi⟩ := toInt_immB_bounds w
  have heven := toNat_immB_even w
  have hsigned := BitVec.toInt_eq_toNat_cond (immB w)
  omega

/-- Settles O12: the bounds hold of every word's result, and the word that answers an offset is its
`EncB`. -/
theorem resultsAreExactlyEvenOffsets : Obligations.ResultsAreExactlyEvenOffsets :=
  ⟨fun w => ⟨toNat_immB_even w, toNat_immB_range w, toInt_immB_bounds w⟩,
    fun o hlo hhi heven => ⟨encB o, toInt_immB_encB hlo hhi heven⟩⟩

end Sys2Proof.Machine
end

section
/-! The laws of the decode function (spec/40_immediate_decode.md R80 to R89): the result as a
weighted sum of the four fields, its sign and range, and the bits of the word it does not read. -/

namespace Sys2Proof.Machine

/-! ### The value of the result -/

/-- Appending a value puts it below the other without a carry, so the OR is a sum. -/
theorem toNat_append_eq_add {n m : Nat} (x : BitVec n) (y : BitVec m) :
    (x ++ y).toNat = 2 ^ m * x.toNat + y.toNat := by
  rw [BitVec.toNat_append, ← Nat.shiftLeft_add_eq_or_of_lt y.isLt, Nat.shiftLeft_eq, Nat.mul_comm]

/-- Each field counts by the weight of its place in `raw13` (spec/30_encoding.md R61, R63). -/
theorem toNat_raw13_eq_sum (w : Word) :
    (raw13 w).toNat = 4096 * (fImm12 w).toNat + 2048 * (fImm11 w).toNat
      + 32 * (fImm10_5 w).toNat + 2 * (fImm4_1 w).toNat := by
  rw [raw13_eq_append]
  simp only [toNat_append_eq_add, BitVec.toNat_ofNat]
  omega

/-- As a signed value the result weighs the same fields, `imm12` negatively: `raw13` reaches the
half of its range exactly when that field is 1. -/
theorem toInt_immB_eq_sum (w : Word) :
    (immB w).toInt = -4096 * ((fImm12 w).toNat : Int) + 2048 * ((fImm11 w).toNat : Int)
      + 32 * ((fImm10_5 w).toNat : Int) + 2 * ((fImm4_1 w).toNat : Int) := by
  have h12 := (fImm12 w).isLt
  have h11 := (fImm11 w).isLt
  have h10_5 := (fImm10_5 w).isLt
  have h4_1 := (fImm4_1 w).isLt
  rw [toInt_immB, BitVec.toInt_eq_toNat_cond, toNat_raw13_eq_sum]
  split <;> omega

theorem toInt_immB_neg_iff (w : Word) : (immB w).toInt < 0 ↔ w.getLsbD 31 = true := by
  have hsign : (immB w).msb = w.getLsbD 31 := by
    rw [BitVec.msb_eq_getLsbD_last]
    exact getLsbD_immB_of_le w (by decide) (by decide)
  rw [← hsign, BitVec.msb_eq_toInt, decide_eq_true_iff]

theorem two_dvd_toInt_immB (w : Word) : (2 : Int) ∣ (immB w).toInt := by
  rw [toInt_immB_eq_sum]
  omega

/-- Settles O6: the sign bit of 13 bits is bit 12, and sign extension keeps the signed value. -/
theorem signExtensionLaw : Obligations.SignExtensionLaw := by
  intro w
  rw [toInt_immB, BitVec.toInt_eq_msb_cond, BitVec.msb_eq_getLsbD_last]
  rfl

/-- Settles O7: every weight of `toInt_immB_eq_sum` is even, and bit 31 of the result is w[31]. -/
theorem offsetEvenAndInRange : Obligations.OffsetEvenAndInRange := by
  intro w
  obtain ⟨hlo, hhi⟩ := toInt_immB_bounds w
  exact ⟨two_dvd_toInt_immB w, hlo, hhi, toInt_immB_neg_iff w⟩

/-- Settles O8: the slices are the four fields. -/
theorem offsetClosedForm : Obligations.OffsetClosedForm := toInt_immB_eq_sum

/-- Settles O10: sign extension keeps the signed value. -/
theorem signedRaw13IsSignedResult : Obligations.SignedRaw13IsSignedResult :=
  fun w => (toInt_immB w).symm

/-- Settles O11: the sum is even, so it is not the largest 13-bit value, 0x1FFF. -/
theorem placedFieldsNeverCarry : Obligations.PlacedFieldsNeverCarry := by
  intro w
  have hsum := toNat_raw13_eq_sum w
  have hraw := (raw13 w).isLt
  exact ⟨hsum, by omega⟩

/-- Settles O14: `raw13` assembles the offset again from the fields of its `EncB`. -/
theorem offsetRoundTrip : Obligations.OffsetRoundTrip :=
  fun _ => toInt_immB_encB

/-- Settles O4: bit 0 is the constant below the fields. -/
theorem resultBitZeroIsZero : Obligations.ResultBitZeroIsZero := by
  intro w
  obtain ⟨-, -, -, -, h0⟩ := slices_immB w
  exact h0

/-- Settles O15: closed words, each evaluated. -/
theorem documentedWordsDecode : Obligations.DocumentedWordsDecode := by
  refine ⟨?_, ?_, ?_, ?_, ?_, ?_, ?_, ?_, ?_, ?_⟩ <;> decide

/-! ### The ignored bits -/

theorem extractLsb'_eq_of_getLsbD_eq {n start len : Nat} {x y : BitVec n}
    (h : ∀ i, start ≤ i → i < start + len → x.getLsbD i = y.getLsbD i) :
    x.extractLsb' start len = y.extractLsb' start len := by
  apply BitVec.eq_of_getLsbD_eq
  intro i hi
  rw [BitVec.getLsbD_extractLsb', BitVec.getLsbD_extractLsb',
    h (start + i) (Nat.le_add_right _ _) (Nat.add_lt_add_left hi _)]

/-- The result reads the word through its four fields only. -/
theorem immB_congr {w v : Word} (h12 : fImm12 w = fImm12 v) (h11 : fImm11 w = fImm11 v)
    (h10_5 : fImm10_5 w = fImm10_5 v) (h4_1 : fImm4_1 w = fImm4_1 v) : immB w = immB v := by
  rw [immB, immB, raw13_eq_append, raw13_eq_append, h12, h11, h10_5, h4_1]

/-- No field holds a bit of w[24:12] or w[6:0]. -/
theorem immB_eq_of_read_bits_eq {w v : Word}
    (h : ∀ i, i < 32 → ¬ (12 ≤ i ∧ i ≤ 24) → ¬ i ≤ 6 → w.getLsbD i = v.getLsbD i) :
    immB w = immB v := by
  apply immB_congr <;>
    exact extractLsb'_eq_of_getLsbD_eq fun i _ _ => h i (by omega) (by omega) (by omega)

/-- The mask of spec/40_immediate_decode.md R86 has a 1 wherever a field reads. -/
theorem getLsbD_read_mask : ∀ i, i < 32 → ¬ (12 ≤ i ∧ i ≤ 24) → ¬ i ≤ 6 →
    (0xFE000F80#32).getLsbD i = true := by
  decide

/-- Settles O9: the masked word agrees with the word on every bit a field reads. -/
theorem ignoredBitsNeverMatter : Obligations.IgnoredBitsNeverMatter := by
  refine ⟨fun w => immB_eq_of_read_bits_eq ?_, fun _ _ => immB_eq_of_read_bits_eq⟩
  intro i hi hmid hlow
  rw [BitVec.getLsbD_and, getLsbD_read_mask i hi hmid hlow, Bool.and_true]

/-! ### The instruction -/

/-- `IMMDEC_B` latches the result as valid, in every state. -/
theorem exec_immdecB (w : Word) (s : State) :
    exec (.immdecB w) s = .next (s.latch true (immB w)) := rfl

/-- Settles O16: `immB` is the concatenation of spec/30_encoding.md R65, and `latch` leaves the other
fields of the state. -/
theorem immdecBCapturesAssembledImmediate : Obligations.ImmdecBCapturesAssembledImmediate := by
  intro w s
  rw [exec_immdecB, immB_eq_bitwiseResult]
  rfl

/-- Settles O5: the value latched does not name the state; the counterexample is evaluated. -/
theorem decodeDependsOnWordAlone : Obligations.DecodeDependsOnWordAlone :=
  ⟨fun w s s' => ⟨_, _, exec_immdecB w s, exec_immdecB w s', rfl⟩, by decide, by decide⟩

end Sys2Proof.Machine
end

section
/-! The rising edge (spec/41_stage_cycle.md R100 to R107): what each operation latches, which
operation the inputs of an edge select, and what a run of edges leaves in the registers. -/

namespace Sys2Proof

open Sys2Proof.Machine

/-! ### The operation an edge selects -/

theorem decode_edge_of_rst {p : Ports} (hr : p.rst = true) : decode (.edge p) = .reset := by
  simp [decode, decodePorts, hr]

theorem decode_edge_of_stall {p : Ports} (hr : p.rst = false) (hs : p.stall = true) :
    decode (.edge p) = .hold := by
  simp [decode, decodePorts, hr, hs]

theorem decode_edge_of_inValid {p : Ports} (hr : p.rst = false) (hs : p.stall = false)
    (hv : p.inValid = true) : decode (.edge p) = .capture p.inInstr := by
  simp [decode, decodePorts, hr, hs, hv]

theorem decode_edge_of_not_inValid {p : Ports} (hr : p.rst = false) (hs : p.stall = false)
    (hv : p.inValid = false) : decode (.edge p) = .bubble p.inInstr := by
  simp [decode, decodePorts, hr, hs, hv]

/-- Each row's mask and pattern, read on the control bits, are the inputs of its kind of edge. -/
theorem stageRow_fits_control (p : Ports) :
    (Instr.row .reset).fits p.control = p.isReset ∧
    (Instr.row .hold).fits p.control = p.isHold ∧
    (∀ w, (Instr.row (.capture w)).fits p.control = p.isCapture) ∧
    (∀ w, (Instr.row (.bubble w)).fits p.control = p.isBubble) := by
  obtain ⟨_ | _, _ | _, _ | _, w⟩ := p <;>
    simp [TableRow.fits, Instr.row, Ports.control, Ports.isReset, Ports.isHold, Ports.isCapture,
      Ports.isBubble]

/-- Settles O30: the rows that fit are the kinds of the edge, of which the priority of
spec/41_stage_cycle.md R104 leaves one. -/
theorem exactlyOneStageRowFits : Obligations.ExactlyOneStageRowFits := by
  intro p
  obtain ⟨hreset, hhold, hcapture, hbubble⟩ := stageRow_fits_control p
  simp only [stageRows, List.filter_cons, List.filter_nil, hreset, hhold, hcapture, hbubble,
    Ports.isReset, Ports.isHold, Ports.isCapture, Ports.isBubble]
  cases hr : p.rst with
  | true => simp [decode_edge_of_rst hr]
  | false =>
    cases hs : p.stall with
    | true => simp [decode_edge_of_stall hr hs]
    | false =>
      cases hv : p.inValid with
      | true => simp [decode_edge_of_inValid hr hs hv, Instr.row]
      | false => simp [decode_edge_of_not_inValid hr hs hv, Instr.row]

theorem Ports.rst_of_isHold {p : Ports} (h : p.isHold = true) : p.rst = false := by
  simp_all [Ports.isHold]

namespace Machine

/-! ### What each operation latches -/

theorem exec_reset (s : State) : exec .reset s = .next (s.latch false Config.outImmReset) := rfl

theorem exec_hold (s : State) : exec .hold s = .next s := rfl

theorem exec_capture (w : Word) (s : State) :
    exec (.capture w) s = .next (s.latch true (immB w)) := rfl

theorem exec_bubble (w : Word) (s : State) :
    exec (.bubble w) s = .next (s.latch false (immB w)) := rfl

/-! ### One edge -/

/-- Settles O23: `State.tick` moves the two input fields on and keeps the registers. -/
theorem stepRunsDecodedInstruction : Obligations.StepRunsDecodedInstruction := fun _ => rfl

theorem step_of_rst {s : State} (hr : s.ports.rst = true) : step s = exec .reset s.tick := by
  rw [step, decode_edge_of_rst hr]

theorem step_of_stall {s : State} (hr : s.ports.rst = false) (hs : s.ports.stall = true) :
    step s = exec .hold s.tick := by
  rw [step, decode_edge_of_stall hr hs]

theorem step_of_inValid {s : State} (hr : s.ports.rst = false) (hs : s.ports.stall = false)
    (hv : s.ports.inValid = true) : step s = exec (.capture s.ports.inInstr) s.tick := by
  rw [step, decode_edge_of_inValid hr hs hv]

theorem step_of_not_inValid {s : State} (hr : s.ports.rst = false) (hs : s.ports.stall = false)
    (hv : s.ports.inValid = false) : step s = exec (.bubble s.ports.inInstr) s.tick := by
  rw [step, decode_edge_of_not_inValid hr hs hv]

/-- Settles O22: each clause is the decoder's choice for its inputs. -/
theorem resetOverStallOverValid : Obligations.ResetOverStallOverValid :=
  ⟨fun _ => step_of_rst, fun _ => step_of_stall, fun _ => step_of_inValid,
    fun _ => step_of_not_inValid⟩

/-- Settles O21, a case for each operation the inputs can select. -/
theorem stepFollowsStageTable : Obligations.StepFollowsStageTable := by
  intro s
  simp only [← immB_eq_bitwiseResult]
  cases hr : s.ports.rst with
  | true => exact ⟨_, (step_of_rst hr).trans (exec_reset _), rfl, rfl⟩
  | false =>
    cases hs : s.ports.stall with
    | true => exact ⟨_, (step_of_stall hr hs).trans (exec_hold _), rfl, rfl⟩
    | false =>
      cases hv : s.ports.inValid with
      | true => exact ⟨_, (step_of_inValid hr hs hv).trans (exec_capture _ _), rfl, rfl⟩
      | false => exact ⟨_, (step_of_not_inValid hr hs hv).trans (exec_bubble _ _), rfl, rfl⟩

/-- Settles O17: a CAPTURE latches both registers, so nothing of an earlier result is left; the
worked example's word is evaluated. -/
theorem captureEdge : Obligations.CaptureEdge := by
  refine ⟨exec_capture,
    fun s hr hs hv => ⟨_, (step_of_inValid hr hs hv).trans (exec_capture _ _), rfl, rfl⟩,
    fun s => ⟨_, exec_capture _ s, rfl, (by decide : immB 0xFE6296E3#32 = 0xFFFFFFEC#32)⟩, ?_⟩
  intro w w' s t ht
  cases (exec_capture w s).symm.trans ht
  exact exec_capture w' _

/-- Settles O18: HOLD answers the state it is run on, at an edge the one whose inputs have moved
on. -/
theorem holdEdge : Obligations.HoldEdge := by
  refine ⟨exec_hold,
    fun s hr hs => ⟨_, (step_of_stall hr hs).trans (exec_hold _), rfl, rfl⟩, ?_⟩
  intro s hvalid himm hp
  have hstep : step s = exec .hold s.tick := step_of_stall (by rw [hp]) (by rw [hp])
  exact ⟨_, hstep.trans (exec_hold _), hvalid, himm⟩

/-- Settles O19: a BUBBLE latches the decoded value with `out_valid` 0; the worked example's word is
evaluated. -/
theorem bubbleEdge : Obligations.BubbleEdge :=
  ⟨exec_bubble,
    fun _ hr hs hv => ⟨_, (step_of_not_inValid hr hs hv).trans (exec_bubble _ _), rfl, rfl⟩,
    fun s => ⟨_, exec_bubble _ s, rfl, (by decide : immB 0x00000100#32 = 0x00000002#32)⟩⟩

/-! ### A placed instruction -/

/-- What the decoder answers is the decoding of the encoding it read. -/
theorem decodeTableWord_eq_some {nbits w : Nat} {i : Instr}
    (h : decodeTableWord nbits w = some i) :
    ∃ e, encodingOfBits nbits w = .ok e ∧ decode e = i := by
  unfold decodeTableWord decodeBits at h
  cases he : encodingOfBits nbits w with
  | error _ => rw [he] at h; cases h
  | ok e => rw [he] at h; exact ⟨e, rfl, Option.some.inj h⟩

theorem withFetchWord_ports {nbits w : Nat} {e : Encoding} (h : encodingOfBits nbits w = .ok e)
    (s : State) : (s.withFetchWord nbits w).ports = e.ports := by
  rw [State.withFetchWord, h]
  rfl

/-- An encoding and the edge that runs it mean the same: a word is run as a CAPTURE, which latches
what its `IMMDEC_B` does. -/
theorem exec_decode_edge_ports (e : Encoding) (s : State) :
    exec (decode (.edge e.ports)) s = exec (decode e) s := by
  cases e with
  | word w => exact (exec_capture w s).trans (exec_immdecB w s).symm
  | edge p => rfl

/-- Settles O25: the next edge samples the ports of the encoding that was placed. -/
theorem placedInstructionRunsNext : Obligations.PlacedInstructionRunsNext := by
  intro s nbits w i h
  obtain ⟨e, he, rfl⟩ := decodeTableWord_eq_some h
  rw [step, withFetchWord_ports he, exec_decode_edge_ports]

end Machine

namespace Safety

/-! ### Runs -/

/-- Settles O34, by induction over the run with the start state free: each edge has a next state. -/
theorem noRunEverStops : Obligations.NoRunEverStops := by
  intro n
  induction n with
  | zero => exact fun s => ⟨s, rfl⟩
  | succ n ih =>
    intro s
    obtain ⟨v, imm, hstep⟩ := step_latches s
    obtain ⟨t, hrest⟩ := ih (s.tick.latch v imm)
    exact ⟨t, (runEdges_succ_of_step n s _ hstep).trans hrest⟩

/-- A run of `n + 1` edges that ends in `t` is a run of `n` to some `u` and one edge from it. -/
theorem runEdges_succ_inv_last (n : Nat) : ∀ (s t : State), runEdges (n + 1) s = .next t →
    ∃ u, runEdges n s = .next u ∧ step u = .next t := by
  induction n with
  | zero =>
    intro s t h
    obtain ⟨u, hstep, hu⟩ := runEdges_succ_inv 0 s t h
    cases hu
    exact ⟨s, rfl, hstep⟩
  | succ n ih =>
    intro s t h
    obtain ⟨s', hfirst, hrest⟩ := runEdges_succ_inv (n + 1) s t h
    obtain ⟨u, hrun, hlast⟩ := ih s' t hrest
    exact ⟨u, (runEdges_succ_of_step n s s' hfirst).trans hrun, hlast⟩

/-- The inputs of the edge after a run of `n` edges. -/
theorem runEdges_ports {n : Nat} {s t : State} (h : runEdges n s = .next t) :
    t.ports = s.portsAt n := by
  rw [← portsAt_zero, runEdges_portsAt n s t h 0, Nat.add_zero]

/-! ### A valid result is the decode of a captured word -/

/-- Settles O35: a CAPTURE makes a valid result, which is the decode of its word; a HOLD carries one
along; a RESET and a BUBBLE leave none. -/
theorem stepKeepsValidIsImmediate : Obligations.StepKeepsValidIsImmediate := by
  intro s t hgood hstep
  obtain ⟨-, rfl⟩ | ⟨-, rfl⟩ | ⟨-, rfl⟩ | ⟨-, rfl⟩ := step_cases s t hstep
  case inl => exact fun hvalid => absurd hvalid Bool.false_ne_true -- RESET
  case inr.inl => exact hgood -- HOLD
  case inr.inr.inl => exact fun _ => ⟨s.ports.inInstr, rfl⟩ -- CAPTURE
  case inr.inr.inr => exact fun hvalid => absurd hvalid Bool.false_ne_true -- BUBBLE

/-- Edge `m` is the last of the first `n` edges that is no HOLD, and it is a CAPTURE. -/
def LastIsCapture (n m : Nat) (s : State) : Prop :=
  m < n ∧ (s.portsAt m).isCapture = true ∧
    ∀ j, m < j → j < n → (s.portsAt j).isHold = true

theorem lastIsCapture_succ_of_capture {n : Nat} {s : State}
    (h : (s.portsAt n).isCapture = true) : LastIsCapture (n + 1) n s :=
  ⟨n.lt_succ_self, h, fun _ hlo hhi => absurd hlo (Nat.not_lt.mpr (Nat.le_of_lt_succ hhi))⟩

theorem LastIsCapture.succ_of_hold {n m : Nat} {s : State} (h : LastIsCapture n m s)
    (hhold : (s.portsAt n).isHold = true) : LastIsCapture (n + 1) m s := by
  obtain ⟨hm, hcapture, hlater⟩ := h
  refine ⟨Nat.lt_succ_of_lt hm, hcapture, fun j hlo hhi => ?_⟩
  obtain hj | rfl := Nat.lt_succ_iff_lt_or_eq.mp hhi
  · exact hlater j hlo hj
  · exact hhold

/-- spec/41_stage_cycle.md R107, by induction over the run from its end: the last edge made the
valid result itself (CAPTURE) or carried it along (HOLD), and a HOLD is not the reset, so the reset
lies among the edges before it. -/
theorem runEdges_valid_after_reset (n : Nat) (s : State) : ∀ t, runEdges n s = .next t →
    (∃ j, j < n ∧ (s.portsAt j).rst = true) → t.outValid = true →
    ∃ m, LastIsCapture n m s ∧ t.outImm = immB (s.portsAt m).inInstr := by
  induction n with
  | zero => exact fun t _ ⟨j, hj, _⟩ => absurd hj j.not_lt_zero
  | succ n ih =>
    rintro t hrun ⟨j, hj, hrst⟩ hvalid
    obtain ⟨u, hbefore, hlast⟩ := runEdges_succ_inv_last n s t hrun
    have hkind := step_cases u t hlast
    rw [runEdges_ports hbefore] at hkind
    obtain ⟨-, rfl⟩ | ⟨hk, rfl⟩ | ⟨hk, rfl⟩ | ⟨-, rfl⟩ := hkind
    case inl => exact absurd hvalid Bool.false_ne_true -- RESET
    case inr.inl => -- HOLD
      have hjn : j ≠ n := by
        rintro rfl
        exact Bool.false_ne_true ((Ports.rst_of_isHold hk).symm.trans hrst)
      obtain ⟨m, hm, himm⟩ := ih u hbefore ⟨j, by omega, hrst⟩ hvalid
      exact ⟨m, hm.succ_of_hold hk, himm⟩
    case inr.inr.inl => exact ⟨n, lastIsCapture_succ_of_capture hk, rfl⟩ -- CAPTURE
    case inr.inr.inr => exact absurd hvalid Bool.false_ne_true -- BUBBLE

/-- A state no reset has been through: a result marked valid that no word decodes to, and a HOLD as
its next edge. -/
def unresetState : State :=
  { outValid := true, outImm := 1,
    stimulus := [{ rst := false, stall := true, inValid := false, inInstr := 0 }], edge := 0 }

theorem unresetState_outImm_ne_immB (w : Word) : unresetState.outImm ≠ immB w := by
  intro h
  have heven : unresetState.outImm.toNat % 2 = 0 := h ▸ toNat_immB_even w
  exact absurd heven (by decide)

/-- Settles O37: after a reset by `runEdges_valid_after_reset`; without one, a HOLD carries the odd
`out_imm` of `unresetState` along. -/
theorem validResultIsLastCapture : Obligations.ValidResultIsLastCapture := by
  refine ⟨fun n s t hrun hreset hvalid => ?_,
    1, unresetState, unresetState.tick, by decide, by decide, rfl, rfl,
    unresetState_outImm_ne_immB⟩
  obtain ⟨m, ⟨hm, hcapture, hlater⟩, himm⟩ := runEdges_valid_after_reset n s t hrun hreset hvalid
  exact ⟨m, hm, hcapture, himm, hlater⟩

end Safety

end Sys2Proof
end

section
/-! Reset, stalls and latency (spec/70_reset_and_hazards.md R140 to R143, R145, R146, R148): the
next state of each kind of edge, and what a run of HOLDs, a kept word and a reset edge lead to. -/

namespace Sys2Proof

open Sys2Proof.Machine

/-! ### The inputs of each kind of edge -/

theorem Ports.isCapture_iff {p : Ports} :
    p.isCapture = true ↔ p.rst = false ∧ p.stall = false ∧ p.inValid = true := by
  simp [Ports.isCapture, and_assoc]

theorem Ports.isBubble_iff {p : Ports} :
    p.isBubble = true ↔ p.rst = false ∧ p.stall = false ∧ p.inValid = false := by
  simp [Ports.isBubble, and_assoc]

/-- Where `stall` or `rst` is 1, the operation does not depend on `in_valid` and `in_instr`. -/
theorem decode_edge_congr_of_blocked {p q : Ports} (hr : p.rst = q.rst) (hs : p.stall = q.stall)
    (h : p.rst = true ∨ p.stall = true) : decode (.edge p) = decode (.edge q) := by
  cases hrst : p.rst with
  | true => rw [decode_edge_of_rst hrst, decode_edge_of_rst (hr ▸ hrst)]
  | false =>
    have hstall : p.stall = true := h.resolve_left (Bool.eq_false_iff.mp hrst)
    rw [decode_edge_of_stall hrst hstall, decode_edge_of_stall (hr ▸ hrst) (hs ▸ hstall)]

namespace Machine

/-! ### The next state of each kind of edge -/

theorem step_of_isReset {s : State} (h : s.ports.isReset = true) :
    step s = .next (s.tick.latch false Config.outImmReset) :=
  (step_of_rst h).trans (exec_reset _)

theorem step_of_isHold {s : State} (h : s.ports.isHold = true) : step s = .next s.tick :=
  (step_of_stall (Ports.rst_of_isHold h) (Ports.stall_of_isHold h)).trans (exec_hold _)

theorem step_of_isCapture {s : State} (h : s.ports.isCapture = true) :
    step s = .next (s.tick.latch true (immB s.ports.inInstr)) := by
  obtain ⟨hr, hs, hv⟩ := Ports.isCapture_iff.mp h
  exact (step_of_inValid hr hs hv).trans (exec_capture _ _)

theorem step_of_isBubble {s : State} (h : s.ports.isBubble = true) :
    step s = .next (s.tick.latch false (immB s.ports.inInstr)) := by
  obtain ⟨hr, hs, hv⟩ := Ports.isBubble_iff.mp h
  exact (step_of_not_inValid hr hs hv).trans (exec_bubble _ _)

@[simp] theorem result_tick (s : State) : s.tick.result = s.result := rfl

@[simp] theorem result_latch_true (s : State) (imm : Word) :
    (s.latch true imm).result = some imm := rfl

/-- Settles O20: RESET latches both registers, and an edge with `rst` = 1 runs it. -/
theorem resetEdge : Obligations.ResetEdge :=
  ⟨exec_reset, fun _ hr => ⟨_, step_of_isReset hr, rfl, rfl⟩⟩

/-- Settles O24: a CAPTURE latches what the `IMMDEC_B` of its word does. -/
theorem capturingEdgeRunsImmdecB : Obligations.CapturingEdgeRunsImmdecB :=
  fun s h => (step_of_isCapture h).trans (exec_immdecB s.ports.inInstr s.tick).symm

/-- Settles O43: the two samples select the same operation, and each is gone after the edge. -/
theorem blockedWordLeavesNoTrace : Obligations.BlockedWordLeavesNoTrace := by
  intro s p q rest hr hs hblocked
  exact congrArg (exec · { s with stimulus := rest, edge := s.edge + 1 })
    (decode_edge_congr_of_blocked hr hs hblocked)

/-- Settles O45: the edge of the reset, then one lemma for each kind of edge that follows. -/
theorem oneResetEdgeBoots : Obligations.OneResetEdgeBoots := fun _ hr =>
  ⟨_, step_of_isReset hr, rfl, rfl,
    fun hcapture => ⟨_, step_of_isCapture hcapture, result_latch_true _ _⟩,
    fun hbubble => ⟨_, step_of_isBubble hbubble, rfl⟩,
    fun hhold => ⟨_, step_of_isHold hhold, rfl, rfl⟩⟩

end Machine

namespace Safety

/-- Settles O36: nothing is marked valid after a reset, so the invariant asks nothing. -/
theorem resetStateIsGood : Obligations.ResetStateIsGood :=
  ⟨fun hvalid => absurd hvalid Bool.false_ne_true, rfl, rfl⟩

/-! ### A stalled consumer -/

/-- Settles O41: the stalled consumer takes nothing, and the reset leaves nothing in flight. -/
theorem resetDuringStallDiscards : Obligations.ResetDuringStallDiscards := fun _ hr hs =>
  ⟨takenNow_of_stall hs, _, step_of_isReset hr, inFlight_latch_false _ _⟩

/-- Settles O42: a HOLD is stalled and only moves the inputs on. -/
theorem stalledResultStaysUntaken : Obligations.StalledResultStaysUntaken := fun s h =>
  ⟨takenNow_of_stall (Ports.stall_of_isHold h), _, step_of_isHold h, result_tick s⟩

/-! ### Runs of HOLDs -/

/-- A run of `n + m` edges goes on with `m` edges from where the first `n` end. -/
theorem runEdges_add {n : Nat} (m : Nat) : ∀ {s u : State}, runEdges n s = .next u →
    runEdges (n + m) s = runEdges m u := by
  induction n with
  | zero =>
    intro s u h
    cases h
    rw [Nat.zero_add]
  | succ n ih =>
    intro s u h
    obtain ⟨v, hstep, hrest⟩ := runEdges_succ_inv n s u h
    rw [Nat.succ_add, runEdges_succ_of_step _ s v hstep, ih hrest]

/-- Settles O38, by induction over the run with the start state free: a HOLD keeps both
registers. -/
theorem holdsCarryPowerOnDraw : Obligations.HoldsCarryPowerOnDraw := by
  intro n
  induction n with
  | zero => exact fun s _ => ⟨s, rfl, rfl, rfl⟩
  | succ n ih =>
    intro s hholds
    have hstep : step s = .next s.tick :=
      step_of_isHold (portsAt_zero s ▸ hholds 0 n.succ_pos)
    obtain ⟨t, hrest, hvalid, himm⟩ := ih s.tick fun j hj =>
      (tick_portsAt s j).symm ▸ hholds (j + 1) (Nat.succ_lt_succ hj)
    exact ⟨t, (runEdges_succ_of_step n s _ hstep).trans hrest, hvalid, himm⟩

/-- A run whose last edge is a CAPTURE ends in a state with that edge's result in the registers. -/
theorem runEdges_succ_of_isCapture {n : Nat} {s : State} (h : (s.portsAt n).isCapture = true) :
    ∃ u : State, runEdges (n + 1) s = .next u ∧ u.outValid = true ∧
      u.outImm = immB (s.portsAt n).inInstr := by
  obtain ⟨u, hrun⟩ := noRunEverStops n s
  rw [← runEdges_ports hrun] at h ⊢
  exact ⟨_, (runEdges_add 1 hrun).trans (runEdges_succ_of_step 0 u _ (step_of_isCapture h)),
    rfl, rfl⟩

/-- Settles O39: the CAPTURE puts the result in the registers, the HOLDs carry it along. -/
theorem resultOneEdgeLaterThroughHolds : Obligations.ResultOneEdgeLaterThroughHolds := by
  intro n k s hcapture hholds
  obtain ⟨u, hrun, hvalid, himm⟩ := runEdges_succ_of_isCapture hcapture
  obtain ⟨t, hrest, hvalid', himm'⟩ := holdsCarryPowerOnDraw k u fun j hj =>
    (runEdges_portsAt (n + 1) s u hrun j).symm ▸ hholds (n + 1 + j) (by omega) (by omega)
  exact ⟨t, (runEdges_add k hrun).trans hrest, hvalid'.trans hvalid, himm'.trans himm⟩

/-! ### A word that is kept -/

/-- The duty of spec/70_reset_and_hazards.md R145, carried over any number of blocked edges: at edge
`k` the word of edge `i` is still presented. -/
theorem UpstreamHolds.presented {s : State} {i k : Nat} (hduty : UpstreamHolds k s) (hik : i ≤ k)
    (hvalid : (s.portsAt i).inValid = true)
    (hblocked : ∀ j, i ≤ j → j < k → (s.portsAt j).stall = true ∨ (s.portsAt j).rst = true) :
    (s.portsAt k).inValid = true ∧ (s.portsAt k).inInstr = (s.portsAt i).inInstr := by
  induction k, hik using Nat.le_induction with
  | base => exact ⟨hvalid, rfl⟩
  | succ k hik ih =>
    obtain ⟨hv, hw⟩ := ih (fun j hj => hduty j (Nat.lt_succ_of_lt hj))
      fun j hij hjk => hblocked j hij (Nat.lt_succ_of_lt hjk)
    obtain ⟨hv', hw'⟩ := hduty k k.lt_succ_self hv (hblocked k hik k.lt_succ_self)
    exact ⟨hv', hw'.trans hw⟩

theorem result_eq_some_of_valid {t : State} {w : Word} (hvalid : t.outValid = true)
    (himm : t.outImm = w) : t.result = some w := by
  simp [State.result, State.portOutValid, State.portOutImm, hvalid, himm]

/-- Settles O44: the word is still presented at edge `k`, which therefore captures it. -/
theorem heldWordIsDecoded : Obligations.HeldWordIsDecoded := by
  intro s i k hduty hik hvalid hblocked hstall hrst
  obtain ⟨hpresented, hsame⟩ := hduty.presented hik hvalid hblocked
  have hcapture : (s.portsAt k).isCapture = true :=
    Ports.isCapture_iff.mpr ⟨hrst, hstall, hpresented⟩
  obtain ⟨t, hrun, hout, himm⟩ := runEdges_succ_of_isCapture hcapture
  exact ⟨t, hrun, result_eq_some_of_valid hout (hsame ▸ himm)⟩

end Safety

end Sys2Proof
end

section
/-! Noninterference (spec/70_reset_and_hazards.md R141, R142, R146, R147): of two states with the
same inputs to come, every operation but HOLD makes the same next state, and HOLD makes two that a
consumer can tell apart only if it could before. -/

namespace Sys2Proof

open Sys2Proof.Machine

theorem decode_edge_ne_hold {p : Ports} (h : p.isHold = false) : decode (.edge p) ≠ .hold := by
  cases hr : p.rst with
  | true => simp [decode_edge_of_rst hr]
  | false =>
    have hs : p.stall = false := by simpa [Ports.isHold, hr] using h
    cases hv : p.inValid with
    | true => simp [decode_edge_of_inValid hr hs hv]
    | false => simp [decode_edge_of_not_inValid hr hs hv]

namespace Safety

/-! ### Two states with the same inputs to come -/

/-- They differ in the registers only, so latching the same values makes them equal. -/
theorem SameInputs.latch_eq {s s' : State} (h : SameInputs s s') (v : Bool) (imm : Word) :
    s.latch v imm = s'.latch v imm := by
  obtain ⟨hstimulus, hedge⟩ := h
  simp only [State.latch, hstimulus, hedge]

theorem SameInputs.tick {s s' : State} (h : SameInputs s s') : SameInputs s.tick s'.tick :=
  ⟨congrArg List.tail h.1, congrArg (· + 1) h.2⟩

theorem SameInputs.ports_eq {s s' : State} (h : SameInputs s s') : s.ports = s'.ports := by
  rw [← latch_ports s false 0, h.latch_eq, latch_ports]

/-- HOLD is the one operation that reads a register. -/
theorem SameInputs.exec_eq {s s' : State} (h : SameInputs s s') {i : Instr} (hi : i ≠ .hold) :
    exec i s = exec i s' := by
  cases i with
  | hold => exact absurd rfl hi
  | immdecB w => rw [exec_immdecB, exec_immdecB, h.latch_eq]
  | reset => rw [exec_reset, exec_reset, h.latch_eq]
  | capture w => rw [exec_capture, exec_capture, h.latch_eq]
  | bubble w => rw [exec_bubble, exec_bubble, h.latch_eq]

theorem SameInputs.step_eq {s s' : State} (h : SameInputs s s') (hhold : s.ports.isHold = false) :
    step s = step s' := by
  rw [step, step, ← h.ports_eq]
  exact h.tick.exec_eq (decode_edge_ne_hold hhold)

/-- A step moves the inputs on in the same way, whatever the registers hold. -/
theorem SameInputs.after_step {s s' u u' : State} (h : SameInputs s s')
    (hu : step s = .next u) (hu' : step s' = .next u') : SameInputs u u' := by
  obtain ⟨hstimulus, hedge⟩ := exec_keeps_inputs _ s.tick u hu
  obtain ⟨hstimulus', hedge'⟩ := exec_keeps_inputs _ s'.tick u' hu'
  exact ⟨by rw [hstimulus, hstimulus', h.tick.1], by rw [hedge, hedge', h.tick.2]⟩

/-! ### No data hazard -/

/-- Settles O26: an instruction leaves the inputs alone, and no decoding one is a HOLD. -/
theorem earlierInstructionsLeaveNoHazard : Obligations.EarlierInstructionsLeaveNoHazard := by
  intro i w s t h
  have hin : SameInputs t s := exec_keeps_inputs i s t h
  exact ⟨hin.exec_eq nofun, hin.exec_eq nofun, hin.exec_eq nofun⟩

/-! ### The initial registers -/

/-- Settles O46, by induction over the run with the start states free: either the first edge is no
HOLD and makes the two states equal, or the edge that is none comes later. -/
theorem oneNonHoldEdgeForgetsRegisters : Obligations.OneNonHoldEdgeForgetsRegisters := by
  intro n
  induction n with
  | zero => exact fun _ _ _ _ _ ⟨j, hj, _⟩ => absurd hj j.not_lt_zero
  | succ n ih =>
    rintro s s' t t' hin ⟨j, hj, hnot⟩ hrun hrun'
    obtain ⟨u, hu, hrest⟩ := runEdges_succ_inv n s t hrun
    obtain ⟨u', hu', hrest'⟩ := runEdges_succ_inv n s' t' hrun'
    cases j with
    | zero =>
      have hstep : step s = step s' := hin.step_eq (portsAt_zero s ▸ hnot)
      cases hu.symm.trans (hstep.trans hu')
      cases hrest.symm.trans hrest'
      rfl
    | succ j =>
      have hlater : (u.portsAt j).isHold = false := step_portsAt s u hu j ▸ hnot
      exact ih u u' t t' (hin.after_step hu hu') ⟨j, Nat.lt_of_succ_lt_succ hj, hlater⟩ hrest hrest'

/-! ### The immediate that is not valid -/

theorem SameToConsumer.inFlight_eq {s s' : State} (h : SameToConsumer s s') :
    inFlight s = inFlight s' :=
  congrArg Option.toList h

theorem SameToConsumer.takenNow_eq {s s' : State} (h : SameToConsumer s s')
    (hin : SameInputs s s') : takenNow s = takenNow s' := by
  rw [takenNow, takenNow, hin.ports_eq, h.inFlight_eq]

/-- A HOLD keeps both results as they are; any other edge makes the two states equal. -/
theorem SameToConsumer.after_step {s s' u u' : State} (h : SameToConsumer s s')
    (hin : SameInputs s s') (hu : step s = .next u) (hu' : step s' = .next u') :
    SameToConsumer u u' := by
  cases hhold : s.ports.isHold with
  | true =>
    cases hu.symm.trans (step_of_isHold hhold)
    cases hu'.symm.trans (step_of_isHold (hin.ports_eq ▸ hhold))
    exact h
  | false =>
    cases hu.symm.trans ((hin.step_eq hhold).trans hu')
    rfl

/-- Settles O47, by induction over the run with the start states free: each edge delivers the same
and keeps the two states the same to a consumer. -/
theorem invalidImmediateNeverSeen : Obligations.InvalidImmediateNeverSeen := by
  intro n
  induction n with
  | zero =>
    intro s s' t t' _ hsame hrun hrun'
    cases hrun
    cases hrun'
    exact ⟨hsame, rfl⟩
  | succ n ih =>
    intro s s' t t' hin hsame hrun hrun'
    obtain ⟨u, hu, hrest⟩ := runEdges_succ_inv n s t hrun
    obtain ⟨u', hu', hrest'⟩ := runEdges_succ_inv n s' t' hrun'
    obtain ⟨hend, htaken⟩ :=
      ih u u' t t' (hin.after_step hu hu') (hsame.after_step hin hu hu') hrest hrest'
    refine ⟨hend, ?_⟩
    rw [takenWords_succ_of_step hu, takenWords_succ_of_step hu', hsame.takenNow_eq hin, htaken]

end Safety

end Sys2Proof
end
